-- ==== Sys2Proof/Word.lean ====
section
/-! DEFINITION. The word types of the PHE (00_scope.md R8, R10; 20_memory.md R51; 30_encoding.md R80). -/

namespace Sys2Proof

/-- A byte: the host data port, a ROM entry, a key byte, a command byte (R8: DATA_WIDTH, TABLE_WIDTH). -/
abbrev Byte := BitVec 8

/-- A 16-bit register: KEYLEN, DIGEST, IDX, REM (R8: KEYLEN_WIDTH, DIGEST_WIDTH; R25, R26). -/
abbrev Half := BitVec 16

/-- A host byte address (R8: ADDR_WIDTH = 17). -/
abbrev HostAddr := BitVec 17

/-- A host transaction word, `WE | ADDR | DATA` (R80). -/
abbrev TxnWord := BitVec 26

/-- The permutation-table ROM: 256 entries of 8 bits (R8: TABLE_ENTRIES; R30). -/
abbrev PermTable := Vector Byte 256

end Sys2Proof
end

