-- ==== Sys2Proof/Syntax.lean ====
section
/-! DEFINITION. The instructions: one constructor per row of spec/opcode_table.json, with the operands the row's
fields give it (30_encoding.md R80, R83, R84). -/

namespace Sys2Proof

/-- The 12 rows of the opcode table. `r8` and `w8` are host transactions; the others are command bytes, which
reach the machine as `W8 CMD, c` (R90). -/
inductive Instr where
  /-- R8 (R100). `data` is the word's DATA field, which a read ignores (R81). -/
  | r8 (addr : HostAddr) (data : Byte)
  /-- W8 (R101). -/
  | w8 (addr : HostAddr) (data : Byte)
  /-- PH.RFC3074, 0x80 (R130). -/
  | phRfc3074
  /-- PH.ORIG, 0x81 (R140). -/
  | phOrig
  /-- PH.WIKI, 0x82 (R150). -/
  | phWiki
  /-- PH.H16, 0x83 (R160). -/
  | phH16
  /-- PH.NOP, 0x00 to 0x7F (R85): RSVD and VARIANT are not looked at. -/
  | phNop (rsvd : BitVec 5) (variant : BitVec 2)
  /-- ILLEGAL, the row 11RRRRVV (R86). -/
  | illegalC0 (rsvd : BitVec 5) (variant : BitVec 2)
  /-- ILLEGAL, the row 101RRRVV (R86). -/
  | illegalA0 (rsvd : BitVec 5) (variant : BitVec 2)
  /-- ILLEGAL, the row 1001RRVV (R86). -/
  | illegal90 (rsvd : BitVec 5) (variant : BitVec 2)
  /-- ILLEGAL, the row 10001RVV (R86). -/
  | illegal88 (rsvd : BitVec 5) (variant : BitVec 2)
  /-- ILLEGAL, the row 100001VV (R86). -/
  | illegal84 (rsvd : BitVec 5) (variant : BitVec 2)
  deriving DecidableEq, Repr

end Sys2Proof
end

