-- ==== Sys2Proof/WellFormed.lean ====
section
/-! DEFINITION. Well-formed instructions: the operands lie in their row of the opcode table. The widths of the
operands are in their types; what is left to check is the fixed bits that the five ILLEGAL rows put into RSVD. -/

namespace Sys2Proof

/-- The fixed bits of each row that fall into the RSVD field (bits 6:2 of the command byte). -/
def Instr.wf : Instr → Bool
  | .r8 _ _ => true
  | .w8 _ _ => true
  | .phRfc3074 => true
  | .phOrig => true
  | .phWiki => true
  | .phH16 => true
  | .phNop _ _ => true
  | .illegalC0 rsvd _ => rsvd.extractLsb' 4 1 == 1#1
  | .illegalA0 rsvd _ => rsvd.extractLsb' 3 2 == 1#2
  | .illegal90 rsvd _ => rsvd.extractLsb' 2 3 == 1#3
  | .illegal88 rsvd _ => rsvd.extractLsb' 1 4 == 1#4
  | .illegal84 rsvd _ => rsvd == 1#5

end Sys2Proof
end

