-- ==== Sys2Proof/Decode.lean ====
section
/-! DEFINITION. The decoder, total on transaction words (30_encoding.md R81) and on command bytes (R83, R84), and
the encoder written from the same field tables (R80, R83, R90). -/

namespace Sys2Proof

/-! ### Fields -/

/-- R80: bit 25 of a transaction word, `WE`. -/
def TxnWord.we (w : TxnWord) : BitVec 1 := w.extractLsb' 25 1

/-- R80: bits 24:8 of a transaction word, `ADDR`. -/
def TxnWord.addr (w : TxnWord) : HostAddr := w.extractLsb' 8 17

/-- R80: bits 7:0 of a transaction word, `DATA`. -/
def TxnWord.data (w : TxnWord) : Byte := w.extractLsb' 0 8

/-- R80: `word = (WE << 25) | (ADDR << 8) | DATA`. -/
def TxnWord.make (we : BitVec 1) (addr : HostAddr) (data : Byte) : TxnWord :=
  (we.setWidth 26 <<< 25) ||| (addr.setWidth 26 <<< 8) ||| data.setWidth 26

/-- R83: bit 7 of a command byte, `START`. -/
def Byte.start (c : Byte) : BitVec 1 := c.extractLsb' 7 1

/-- R83: bits 6:2 of a command byte, `RSVD`. -/
def Byte.rsvd (c : Byte) : BitVec 5 := c.extractLsb' 2 5

/-- R83: bits 1:0 of a command byte, `VARIANT`. -/
def Byte.variant (c : Byte) : BitVec 2 := c.extractLsb' 0 2

/-- R83: a command byte from its fields. -/
def Byte.command (start : BitVec 1) (rsvd : BitVec 5) (variant : BitVec 2) : Byte := start ++ rsvd ++ variant

/-! ### Decoding -/

/-- R81: every transaction word is a valid transaction. -/
def decodeTransaction (w : TxnWord) : Instr :=
  if TxnWord.we w = 0#1 then .r8 (TxnWord.addr w) (TxnWord.data w)
  else .w8 (TxnWord.addr w) (TxnWord.data w)

/-- The row of the opcode table that an illegal command byte lies in, by the highest bit set in RSVD (R86). -/
def decodeIllegal (rsvd : BitVec 5) (variant : BitVec 2) : Instr :=
  if rsvd.getLsbD 4 then .illegalC0 rsvd variant
  else if rsvd.getLsbD 3 then .illegalA0 rsvd variant
  else if rsvd.getLsbD 2 then .illegal90 rsvd variant
  else if rsvd.getLsbD 1 then .illegal88 rsvd variant
  else .illegal84 rsvd variant

/-- R83, R84: every command byte is in exactly one row. -/
def decodeCommand (c : Byte) : Instr :=
  if Byte.start c = 0#1 then .phNop (Byte.rsvd c) (Byte.variant c)
  else if Byte.rsvd c ≠ 0#5 then decodeIllegal (Byte.rsvd c) (Byte.variant c)
  else if Byte.variant c = 0#2 then .phRfc3074
  else if Byte.variant c = 1#2 then .phOrig
  else if Byte.variant c = 2#2 then .phWiki
  else .phH16

/-- The two levels of machine code (30_encoding.md, opening): a host transaction word, or a command byte. -/
inductive Encoded where
  | transaction (w : TxnWord)
  | command (c : Byte)
  deriving DecidableEq, Repr

/-- The decoder over both levels, total. -/
def decode : Encoded → Instr
  | .transaction w => decodeTransaction w
  | .command c => decodeCommand c

/-- Why a number is no encoding. -/
inductive DecodeReject where
  /-- Fewer than 8 bits: neither a command byte nor a transaction word. -/
  | tooShort
  /-- A command byte is 8 bits (R82): the number has a bit above them. -/
  | bitsAboveCommandByte
  /-- A transaction word is 26 bits (R80): the number has a bit above them. -/
  | bitsAboveTransactionWord
  deriving DecidableEq, Repr

/-- The encoding that the number `w`, given as `nbits` bits, is: 8 bits are a command byte (R82), more are a
transaction word of 26 bits (R80), whose row the opcode table gives in whole bytes. -/
def encodedOfBits (nbits w : Nat) : Except DecodeReject Encoded :=
  if nbits < 8 then .error .tooShort
  else if nbits = 8 then
    if w < 2 ^ 8 then .ok (.command (BitVec.ofNat 8 w)) else .error .bitsAboveCommandByte
  else if w < 2 ^ 26 then .ok (.transaction (BitVec.ofNat 26 w)) else .error .bitsAboveTransactionWord

/-- The decoder on any number of bits, rejecting by name. -/
def decodeBits (nbits w : Nat) : Except DecodeReject Instr :=
  match encodedOfBits nbits w with
  | .ok e => .ok (decode e)
  | .error r => .error r

/-- The instruction the decoder reads from an opcode-table word; bit 0 is the least significant bit of the
transaction word (R80) or of the command byte (R83), as the table numbers them. -/
def decodeTableWord (nbits w : Nat) : Option Instr :=
  match decodeBits nbits w with
  | .ok i => some i
  | .error _ => none

/-! ### Encoding -/

/-- The encoding of an instruction: a transaction word for R8 and W8 (R80), a command byte for the rest (R84). -/
def encode : Instr → Encoded
  | .r8 addr data => .transaction (TxnWord.make 0#1 addr data)
  | .w8 addr data => .transaction (TxnWord.make 1#1 addr data)
  | .phRfc3074 => .command 0x80#8
  | .phOrig => .command 0x81#8
  | .phWiki => .command 0x82#8
  | .phH16 => .command 0x83#8
  | .phNop rsvd variant => .command (Byte.command 0#1 rsvd variant)
  | .illegalC0 rsvd variant => .command (Byte.command 1#1 rsvd variant)
  | .illegalA0 rsvd variant => .command (Byte.command 1#1 rsvd variant)
  | .illegal90 rsvd variant => .command (Byte.command 1#1 rsvd variant)
  | .illegal88 rsvd variant => .command (Byte.command 1#1 rsvd variant)
  | .illegal84 rsvd variant => .command (Byte.command 1#1 rsvd variant)

/-- R90: the transaction that carries an encoding. A command byte `c` is written by `W8 CMD, c`, CMD being host
address 0x00000. -/
def Encoded.toTransaction : Encoded → TxnWord
  | .transaction w => w
  | .command c => TxnWord.make 1#1 0x00000#17 c

/-- The transaction word of an instruction (R80, R90). -/
def encodeTransaction (i : Instr) : TxnWord := (encode i).toTransaction

/-! ### The rows of the opcode table -/

/-- A row's match and mask, and whether it is a command byte's or a transaction word's (opcode_table.json). -/
structure TableRow where
  isCommand : Bool
  mtch : Nat
  mask : Nat
  deriving DecidableEq, Repr

/-- The row of the opcode table that an instruction's constructor stands for. -/
def Instr.row : Instr → TableRow
  | .r8 _ _ => { isCommand := false, mtch := 0x0000000, mask := 0x2000000 }
  | .w8 _ _ => { isCommand := false, mtch := 0x2000000, mask := 0x2000000 }
  | .phRfc3074 => { isCommand := true, mtch := 0x80, mask := 0xFF }
  | .phOrig => { isCommand := true, mtch := 0x81, mask := 0xFF }
  | .phWiki => { isCommand := true, mtch := 0x82, mask := 0xFF }
  | .phH16 => { isCommand := true, mtch := 0x83, mask := 0xFF }
  | .phNop _ _ => { isCommand := true, mtch := 0x00, mask := 0x80 }
  | .illegalC0 _ _ => { isCommand := true, mtch := 0xC0, mask := 0xC0 }
  | .illegalA0 _ _ => { isCommand := true, mtch := 0xA0, mask := 0xE0 }
  | .illegal90 _ _ => { isCommand := true, mtch := 0x90, mask := 0xF0 }
  | .illegal88 _ _ => { isCommand := true, mtch := 0x88, mask := 0xF8 }
  | .illegal84 _ _ => { isCommand := true, mtch := 0x84, mask := 0xFC }

/-- An encoding lies in a row: its level is the row's and its bits under the mask are the row's match. -/
def Encoded.inRow : Encoded → TableRow → Bool
  | .transaction w, r => !r.isCommand && w &&& BitVec.ofNat 26 r.mask == BitVec.ofNat 26 r.mtch
  | .command c, r => r.isCommand && c &&& BitVec.ofNat 8 r.mask == BitVec.ofNat 8 r.mtch

end Sys2Proof
end

