-- ==== Sys2Proof/Config.lean ====
section
/-! DEFINITION. What an implementation fixes (00_scope.md R8) and the values the spec leaves free (10_state.md R44). -/

namespace Sys2Proof

/-- RFC_LONG_POLICY: what PH.RFC3074 does with a key longer than 255 bytes (R8, R133). -/
inductive RfcLongPolicy where
  | reject
  | truncate
  deriving DecidableEq, Repr

/-- The parameters of one instance beside the ROM's content (R8; R65 for PHE_BASE). No step changes them. -/
structure Params where
  /-- KEY_CAP, the key-buffer size in bytes. -/
  keyCap : Nat
  /-- RFC_LONG_POLICY; REJECT is the default (R8, R133; 92_eei_decisions.md D9). -/
  rfcLong : RfcLongPolicy := .reject
  /-- PHE_BASE, where a system places the block's 17-bit space. The block itself never looks at it (R65). -/
  pheBase : Nat
  deriving DecidableEq, Repr

/-- R8: `256 ≤ KEY_CAP ≤ 65535`. -/
abbrev Params.wf (p : Params) : Prop := 256 ≤ p.keyCap ∧ p.keyCap ≤ 65535

/-- R65: the system address of offset `a` of the block. -/
def Params.systemAddress (p : Params) (a : HostAddr) : Nat := p.pheBase + a.toNat

/-- R30, R31: the table holds 256 distinct byte values. -/
abbrev PermTable.wf (t : PermTable) : Prop := t.toList.Nodup

namespace Config

/-- The table `T[i] = i`. It stands in for PERM_TABLE where the raw free table is no permutation, so that the
instance's table is one whatever the raw value is. -/
def identityTable : PermTable := Vector.ofFn (fun i : Fin 256 => BitVec.ofNat 8 i.val)

/-- The raw free value behind KEY_CAP (log 1). -/
opaque rawKeyCap : Nat

/-- The raw free value behind PERM_TABLE (log 1). -/
opaque rawTable : PermTable

/-- PHE_BASE of the instance, open (R65; log 1). -/
opaque pheBase : Nat

/-- KEY_CAP of the instance: any value from 256 to 65535, which one is open (R8; log 1). -/
def keyCap : Nat := rawKeyCap % 65280 + 256

/-- The parameters of the instance that `State.reset` describes: RFC_LONG_POLICY is R8's default, REJECT. -/
def params : Params := { keyCap := keyCap, pheBase := pheBase }

/-- PERM_TABLE of the instance: any permutation, which one is open (R31, N1; log 1). -/
def permTable : PermTable := if PermTable.wf rawTable then rawTable else identityTable

/-- R44, U4: the free value of KEYBUF byte `index` not written since reset number `epoch`. DESIGN CHOICE: the draw takes
nothing else, so it does not depend on the bytes held before that reset, on which R213 lets it depend (log 2). -/
opaque freeKeyByte : (epoch : Nat) → (index : Nat) → Byte

/-- The parameters of the spec's test instance (R9): KEY_CAP and RFC_LONG_POLICY are R9's. DESIGN CHOICE: PHE_BASE is 0,
for which R9 gives no value and which R65 leaves a parameter. No definition of the machine uses them (log 8). -/
def testParams : Params := { keyCap := 1024, rfcLong := .reject, pheBase := 0 }

end Config

end Sys2Proof
end

