-- ==== Sys2Proof/Machine/State.lean ====
section
/-! DEFINITION. The state of the PHE (10_state.md R20), the reasons a step can stop, and the state after reset
(R43, R44). -/

namespace Sys2Proof.Machine

/-- The four operations, as OPL and the VARIANT field name them (R27, R83). -/
inductive Variant where
  /-- 0b00 -/
  | rfc3074
  /-- 0b01 -/
  | original
  /-- 0b10 -/
  | wikipedia
  /-- 0b11 -/
  | hash16
  deriving DecidableEq, Repr

/-- The error codes a command can complete with (60_exceptions.md R181); code 0 is no error, 5 to 7 are never
produced. -/
inductive ErrCode where
  /-- 1: KEYLEN = 0 for ORIGINAL or HASH16. -/
  | keyEmpty
  /-- 2: KEYLEN > 255 for RFC3074 under REJECT. -/
  | keyTooLong
  /-- 3: KEYLEN > KEY_CAP. -/
  | keylenOverCap
  /-- 4: a command byte with START = 1 and RSVD ≠ 0. -/
  | illegalCommand
  deriving DecidableEq, Repr

/-- One turn of the world outside the engine's own clock (20_memory.md R50, R52): what the host or the platform
does next, or that the engine moves next (log 3). -/
inductive Input where
  /-- The host presents a transaction (R51: req = 1, with we, addr and wdata as the word's fields, R80). -/
  | host (w : TxnWord)
  /-- The engine takes its next step, if it has one. -/
  | engine
  /-- The platform holds rst = 1 for one cycle (R210), with a transaction presented in it or not. -/
  | reset (presented : Option TxnWord)
  deriving DecidableEq, Repr

/-- The bytes of KEYBUF written since the last reset: (index, byte), indexes strictly rising. An unlisted byte has no
stored value; `State.keyByte` says what it reads as (log 2). -/
abbrev Memory := List Host.Cell

/-- The canonical form: indexes strictly rising. No stored byte is what an unlisted index holds, since that is no
stored value (log 2). -/
abbrev Memory.wf (m : Memory) : Prop := m.Pairwise (fun a b => a.1 < b.1)

/-- Every piece of state the spec gives the PHE (R20), the instance's parameters (R8), and the model's own three
fields `keyEpoch`, `inputs` and `rdata`. -/
structure State where
  /-- T, the permutation-table ROM (R30). -/
  rom : PermTable
  /-- KEY_CAP, RFC_LONG_POLICY and PHE_BASE (R8). -/
  params : Params
  /-- KEYBUF, the bytes written since reset (R32). -/
  keybuf : Memory
  /-- Which draw of the unwritten KEYBUF bytes this is: the number of resets so far (the model's own; log 2). -/
  keyEpoch : Nat
  /-- KEYLEN (R33). -/
  keylen : Half
  /-- STATUS.BUSY (R37): the engine state is RUN (R29). -/
  busy : Bool
  /-- STATUS.DONE (R38). -/
  done : Bool
  /-- STATUS.ERR (R39). -/
  err : Bool
  /-- STATUS.ERRCODE (R39). -/
  errcode : BitVec 3
  /-- DIGEST (R41). -/
  digest : Half
  /-- H, the running hash value (R23). -/
  h : Byte
  /-- H1, HASH16's first-pass result (R24). -/
  h1 : Byte
  /-- IDX, the index of the next key byte (R25). -/
  idx : Half
  /-- REM, the key bytes still to fold (R26). -/
  rem : Half
  /-- OPL, the latched variant (R27). -/
  opl : Variant
  /-- PASS: true in HASH16's second pass (R28). -/
  pass : Bool
  /-- The turns still to come, oldest first (the model's own; log 3). -/
  inputs : List Input
  /-- The output signal rdata: the byte the last port turn drove, none where it drove none (R51; log 4). -/
  rdata : Option Byte
  deriving DecidableEq, Repr

/-- Why a step stops with a fault. -/
inductive Fault where
  /-- Raised by an engine fold step whose IDX is not below KEY_CAP: KEYBUF has no such byte (R32, R142). Safe: the
  model stops where it has nothing to read, and no state that meets R45's invariants raises it (log 5). -/
  | keyIndexOutsideBuffer
  deriving DecidableEq, Repr

/-- Why a step is refused. -/
inductive Refusal where
  /-- Raised by `exec` for an instruction that has no meaning yet. Safe: the model stops. No arm uses it. -/
  | notModelled (mnemonic : String)
  deriving DecidableEq, Repr

/-- R43, R44: every element at its reset value, for a ROM, parameters, a draw of KEYBUF's unwritten bytes and turns
to come. R212: reset does not change T. -/
def State.afterReset (rom : PermTable) (params : Params) (epoch : Nat) (inputs : List Input) : State where
  rom := rom
  params := params
  keybuf := []
  keyEpoch := epoch
  keylen := 0x0000#16
  busy := false
  done := false
  err := false
  errcode := 0b000#3
  digest := 0x0000#16
  h := 0x00#8
  h1 := 0x00#8
  idx := 0x0000#16
  rem := 0x0000#16
  opl := .rfc3074
  pass := false
  inputs := inputs
  rdata := none

/-- The machine right after its first reset: R43, R44, with the instance's open ROM content, KEY_CAP and PHE_BASE (log 1)
and the default RFC_LONG_POLICY (R8). Another instance's is `State.afterReset` of its table and parameters. -/
def State.reset : State := State.afterReset Config.permTable Config.params 0 []

end Sys2Proof.Machine
end

