-- ==== Sys2Proof/Machine/Flags.lean ====
section
/-! DEFINITION. The STATUS register: its byte (10_state.md R36), its changes (R37, R38, R39), and the codes and names
behind its fields (60_exceptions.md R181; 10_state.md R27). -/

namespace Sys2Proof.Machine

/-- R181: the number of an error code. -/
def ErrCode.bits : ErrCode → BitVec 3
  | .keyEmpty => 1#3
  | .keyTooLong => 2#3
  | .keylenOverCap => 3#3
  | .illegalCommand => 4#3

/-- R27, R83: the variant that two bits name. -/
def Variant.ofBits (v : BitVec 2) : Variant :=
  if v = 0b00#2 then .rfc3074 else if v = 0b01#2 then .original else if v = 0b10#2 then .wikipedia else .hash16

/-- R27: the two bits of a variant. -/
def Variant.bits : Variant → BitVec 2
  | .rfc3074 => 0b00#2
  | .original => 0b01#2
  | .wikipedia => 0b10#2
  | .hash16 => 0b11#2

namespace State

/-- R36, R100: the byte a read of STATUS returns, `{0, ERRCODE[2:0], 0, ERR, DONE, BUSY}`. -/
def statusByte (s : State) : Byte :=
  0#1 ++ s.errcode ++ 0#1 ++ BitVec.ofBool s.err ++ BitVec.ofBool s.done ++ BitVec.ofBool s.busy

/-- R103: the first act of every accepted command. -/
def clearStatus (s : State) : State := { s with done := false, err := false, errcode := 0b000#3 }

/-- R183: the error completion, the one way a command fails. It changes nothing else (R188). -/
def raise (s : State) (code : ErrCode) : State := { s with err := true, errcode := code.bits, done := true }

/-- R131, R165: what the final engine step does beside DIGEST; ERR and ERRCODE stay. -/
def finish (s : State) : State := { s with pass := false, busy := false, done := true }

/-- R186: the output busy_o. -/
def busyO (s : State) : Bool := s.busy

/-- R186: the output done_o. -/
def doneO (s : State) : Bool := s.done

end State

end Sys2Proof.Machine
end

