-- ==== Sys2Proof/Machine/Operands.lean ====
section
/-! DEFINITION. The one operand form of the PHE, an absolute host address, and the map it goes through (20_memory.md
R53, R58; 10_state.md R34); and the byte order of the 16-bit registers (20_memory.md R59). -/

namespace Sys2Proof.Machine

/-- R59, R10: the high byte of a 16-bit register, bits 15:8. -/
def hiByte (x : Half) : Byte := x.extractLsb' 8 8

/-- R59, R10: the low byte of a 16-bit register, bits 7:0. -/
def loByte (x : Half) : Byte := x.extractLsb' 0 8

/-- R10: `{hi, lo}`, which R165 writes `(hi << 8) | lo`. -/
def ofBytes (hi lo : Byte) : Half := (hi.setWidth 16 <<< 8) ||| lo.setWidth 16

/-- What a host address reaches (R53). -/
inductive Target where
  /-- 0x00000 -/
  | cmd
  /-- 0x00001 -/
  | status
  /-- 0x00002 -/
  | keylenHi
  /-- 0x00003 -/
  | keylenLo
  /-- 0x00004 -/
  | digestHi
  /-- 0x00005 -/
  | digestLo
  /-- 0x00100 to 0x001FF: ROM entry `i` (R54). -/
  | table (i : Byte)
  /-- 0x10000 to 0x10000 + KEY_CAP - 1: key byte `i` (R55). -/
  | key (i : Nat)
  /-- Every other address (R56). -/
  | reserved
  deriving DecidableEq, Repr

/-- R53: the address map, for a key buffer of `keyCap` bytes. -/
def targetOf (keyCap : Nat) (addr : HostAddr) : Target :=
  let a := addr.toNat
  if a = 0x00000 then .cmd
  else if a = 0x00001 then .status
  else if a = 0x00002 then .keylenHi
  else if a = 0x00003 then .keylenLo
  else if a = 0x00004 then .digestHi
  else if a = 0x00005 then .digestLo
  else if 0x00100 ≤ a ∧ a ≤ 0x001FF then .table (BitVec.ofNat 8 (a - 0x00100))
  else if 0x10000 ≤ a ∧ a - 0x10000 < keyCap then .key (a - 0x10000)
  else .reserved

end Sys2Proof.Machine
end

