-- ==== Sys2Proof/Machine/Ops.lean ====
section
/-! DEFINITION. The named operations over KEYBUF, the ROM and the registers, the host port's reads and writes
(40_fold_and_loop.md R100, R101), the acceptance procedure (R102 to R106) with the error completion it shares
(60_exceptions.md R183, `State.raise` in Flags.lean; R189: there is no return from an error), and the reset event
(70_reset_and_hazards.md R210). -/

namespace Sys2Proof.Machine

/-! ### KEYBUF -/

/-- The stored byte at an index, if one was written since reset. -/
def Memory.read : Memory → Nat → Option Byte
  | [], _ => none
  | (a, b) :: m, i => if a = i then some b else Memory.read m i

/-- Store a byte at an index, keeping the indexes strictly rising. -/
def Memory.write : Memory → Nat → Byte → Memory
  | [], i, v => [(i, v)]
  | (a, b) :: m, i, v =>
    if i < a then (i, v) :: (a, b) :: m
    else if i = a then (i, v) :: m
    else (a, b) :: Memory.write m i v

namespace State

/-- R12: `KEYBUF[i]`. A byte not written since reset reads as the free value of R44 (log 2). -/
def keyByte (s : State) (i : Nat) : Byte := (Memory.read s.keybuf i).getD (Config.freeKeyByte s.keyEpoch i)

/-- R55: `KEYBUF[i] <- v`. -/
def setKeyByte (s : State) (i : Nat) (v : Byte) : State := { s with keybuf := Memory.write s.keybuf i v }

/-- R12: `T[i]`. -/
def romByte (s : State) (i : Byte) : Byte := s.rom[i.toNat]'i.isLt

/-- R40: `KEYLEN <- {v, KEYLEN[7:0]}`. -/
def setKeylenHi (s : State) (v : Byte) : State := { s with keylen := ofBytes v (loByte s.keylen) }

/-- R40: `KEYLEN <- {KEYLEN[15:8], v}`. -/
def setKeylenLo (s : State) (v : Byte) : State := { s with keylen := ofBytes (hiByte s.keylen) v }

/-! ### Host reads -/

/-- R100: the byte a read of what an address reaches returns. -/
def readTarget (s : State) : Target → Byte
  | .cmd => 0x00#8
  | .status => s.statusByte
  | .keylenHi => hiByte s.keylen
  | .keylenLo => loByte s.keylen
  | .digestHi => hiByte s.digest
  | .digestLo => loByte s.digest
  | .table i => s.romByte i
  | .key i => s.keyByte i
  | .reserved => 0x00#8

/-- R100: the byte a host read of an address returns. -/
def portRead (s : State) (addr : HostAddr) : Byte := s.readTarget (targetOf s.params.keyCap addr)

/-- R51: the byte a read transaction puts on rdata. -/
def driveRead (s : State) (v : Byte) : State := { s with rdata := some v }

/-! ### Command acceptance -/

/-- R106: `start(v, L)` with `L = KEYLEN`. H1 is not written. -/
def start (s : State) (v : Variant) : State :=
  { s with
    opl := v
    pass := false
    h := if v = .rfc3074 then loByte s.keylen else 0x00#8
    idx := if v = .rfc3074 then s.keylen - 1#16 else 0x0000#16
    rem := s.keylen
    busy := true }

/-- R102, R104, R105: the checks of a legal command in their order, then R106. -/
def acceptVariant (s : State) (v : Variant) : State :=
  if s.keylen.toNat > s.params.keyCap then s.raise .keylenOverCap
  else if v = .rfc3074 ∧ s.keylen.toNat > 255 ∧ s.params.rfcLong = .reject then s.raise .keyTooLong
  else if (v = .original ∨ v = .hash16) ∧ s.keylen.toNat = 0 then s.raise .keyEmpty
  else s.start v

/-- R101, R221: what a host write does happens while BUSY = 0; otherwise the write is ignored. -/
def whenIdle (s : State) (f : State → State) : State := if s.busy then s else f s

/-- R102, R103: a command for the variant `v`, if idle. -/
def runVariant (s : State) (v : Variant) : State := s.whenIdle (fun s => s.clearStatus.acceptVariant v)

/-- R86, R182: an illegal command, if idle; checked before KEYLEN. -/
def runIllegal (s : State) : State := s.whenIdle (fun s => s.clearStatus.raise .illegalCommand)

/-- R102: `accept(c)`, for a command byte with START = 1. -/
def accept (s : State) (c : Byte) : State :=
  if Byte.rsvd c ≠ 0#5 then s.clearStatus.raise .illegalCommand
  else s.clearStatus.acceptVariant (Variant.ofBits (Byte.variant c))

/-! ### Host writes -/

/-- R101: a write to what an address reaches, while idle. -/
def writeTarget (s : State) (v : Byte) : Target → State
  | .cmd => if Byte.start v = 1#1 then s.accept v else s
  | .status => s
  | .keylenHi => s.setKeylenHi v
  | .keylenLo => s.setKeylenLo v
  | .digestHi => s
  | .digestLo => s
  | .table _ => s
  | .key i => s.setKeyByte i v
  | .reserved => s

/-- R101: a host write of a byte to an address. -/
def portWrite (s : State) (addr : HostAddr) (v : Byte) : State :=
  s.whenIdle (fun s => s.writeTarget v (targetOf s.params.keyCap addr))

/-! ### Reset -/

/-- R210: what rdata holds in a reset cycle: 0x00 for a read presented in it, nothing otherwise. -/
def resetRead : Option TxnWord → Option Byte
  | none => none
  | some w => if TxnWord.we w = 0#1 then some 0x00#8 else none

/-- R210, R211, R212, R213: one cycle of rst = 1. Every element takes its reset value, KEYBUF is drawn anew, the ROM
and the parameters stay, and the transaction presented does nothing but return 0x00 to a read. DESIGN CHOICE: the new
draw does not depend on the bytes held before, though R213 admits hardware that keeps them (log 2). -/
def resetCycle (s : State) (presented : Option TxnWord) : State :=
  { State.afterReset s.rom s.params (s.keyEpoch + 1) s.inputs with rdata := resetRead presented }

/-! ### The port -/

/-- The turn at the head of `inputs` is taken: the turns after it remain. -/
def takeTurn (s : State) (rest : List Input) : State := { s with inputs := rest }

/-- R51: the port turn of a host transaction begins: it is taken from `inputs`, and rdata holds no byte yet. -/
def beginPort (s : State) (rest : List Input) : State := { s with inputs := rest, rdata := none }

end State

/-- The transaction word that carries an opcode-table word: itself for more than 8 bits, else `W8 CMD, c` (R90). -/
def fetchWord (nbits w : Nat) : TxnWord :=
  if nbits ≤ 8 then (Encoded.command (BitVec.ofNat 8 w)).toTransaction else BitVec.ofNat 26 w

end Sys2Proof.Machine
end

