-- ==== Sys2Proof/Machine/Command.lean ====
section
/-! DEFINITION. The meanings of the command bytes (30_encoding.md R84): the acceptance of each operation
(41_hash8.md R130, R140, R150; 42_hash16.md R160), the no-op (R85), and the five illegal rows (R86; 60_exceptions.md
R182). What the engine does with an accepted operation is in Engine.lean. -/

namespace Sys2Proof.Machine

/-- R130: `PH.RFC3074`. -/
def execPhRfc3074 (s : State) : Host.Outcome State Fault Refusal := .next (s.runVariant .rfc3074)

/-- R140: `PH.ORIG`. -/
def execPhOrig (s : State) : Host.Outcome State Fault Refusal := .next (s.runVariant .original)

/-- R150: `PH.WIKI`. -/
def execPhWiki (s : State) : Host.Outcome State Fault Refusal := .next (s.runVariant .wikipedia)

/-- R160: `PH.H16`. -/
def execPhH16 (s : State) : Host.Outcome State Fault Refusal := .next (s.runVariant .hash16)

/-- R85: `PH.NOP` changes no state. -/
def execPhNop (_rsvd : BitVec 5) (_variant : BitVec 2) (s : State) : Host.Outcome State Fault Refusal := .next s

/-- R86, R182: the row 11RRRRVV. -/
def execIllegalC0 (_rsvd : BitVec 5) (_variant : BitVec 2) (s : State) : Host.Outcome State Fault Refusal :=
  .next s.runIllegal

/-- R86, R182: the row 101RRRVV. -/
def execIllegalA0 (_rsvd : BitVec 5) (_variant : BitVec 2) (s : State) : Host.Outcome State Fault Refusal :=
  .next s.runIllegal

/-- R86, R182: the row 1001RRVV. -/
def execIllegal90 (_rsvd : BitVec 5) (_variant : BitVec 2) (s : State) : Host.Outcome State Fault Refusal :=
  .next s.runIllegal

/-- R86, R182: the row 10001RVV. -/
def execIllegal88 (_rsvd : BitVec 5) (_variant : BitVec 2) (s : State) : Host.Outcome State Fault Refusal :=
  .next s.runIllegal

/-- R86, R182: the row 100001VV. -/
def execIllegal84 (_rsvd : BitVec 5) (_variant : BitVec 2) (s : State) : Host.Outcome State Fault Refusal :=
  .next s.runIllegal

end Sys2Proof.Machine
end

