-- ==== Sys2Proof/Machine/Port.lean ====
section
/-! DEFINITION. The meanings of the two host transactions (40_fold_and_loop.md R100, R101). -/

namespace Sys2Proof.Machine

/-- R100: `R8 addr`. No state changes; the byte goes to rdata. R81: DATA is ignored. -/
def execR8 (addr : HostAddr) (_data : Byte) (s : State) : Host.Outcome State Fault Refusal :=
  .next (s.driveRead (s.portRead addr))

/-- R101: `W8 addr, v`. -/
def execW8 (addr : HostAddr) (data : Byte) (s : State) : Host.Outcome State Fault Refusal :=
  .next (s.portWrite addr data)

end Sys2Proof.Machine
end

