-- ==== Sys2Proof/Machine/Dispatch.lean ====
section
/-! DEFINITION. The meaning of every instruction: one arm per constructor of Instr, one direct call each. -/

namespace Sys2Proof.Machine

def exec (i : Instr) (s : State) : Host.Outcome State Fault Refusal :=
  match i with
  | .r8 addr data => Sys2Proof.Machine.execR8 addr data s
  | .w8 addr data => Sys2Proof.Machine.execW8 addr data s
  | .phRfc3074 => Sys2Proof.Machine.execPhRfc3074 s
  | .phOrig => Sys2Proof.Machine.execPhOrig s
  | .phWiki => Sys2Proof.Machine.execPhWiki s
  | .phH16 => Sys2Proof.Machine.execPhH16 s
  | .phNop rsvd variant => Sys2Proof.Machine.execPhNop rsvd variant s
  | .illegalC0 rsvd variant => Sys2Proof.Machine.execIllegalC0 rsvd variant s
  | .illegalA0 rsvd variant => Sys2Proof.Machine.execIllegalA0 rsvd variant s
  | .illegal90 rsvd variant => Sys2Proof.Machine.execIllegal90 rsvd variant s
  | .illegal88 rsvd variant => Sys2Proof.Machine.execIllegal88 rsvd variant s
  | .illegal84 rsvd variant => Sys2Proof.Machine.execIllegal84 rsvd variant s

end Sys2Proof.Machine
end

