-- ==== Sys2Proof/Machine/Engine.lean ====
section
/-! DEFINITION. The engine agent (40_fold_and_loop.md R110 to R114; 41_hash8.md R131; 42_hash16.md R161, R162, R164,
R165). -/

namespace Sys2Proof.Machine

/-- R162: `(k0 + 1) mod 255` on the unsigned byte, the sum not wrapping at 256. -/
def perturb (k0 : Byte) : Byte := BitVec.ofNat 8 ((k0.toNat + 1) % 255)

/-- R113: the next index in the operation's byte order, modulo 2^16. -/
def nextIndex (v : Variant) (i : Half) : Half := if v = .rfc3074 then i - 1#16 else i + 1#16

namespace State

/-- R112: `byte_at(i)`, the byte the fold reads. -/
def byteAt (s : State) (i : Half) : Byte :=
  if s.opl = .hash16 ∧ s.pass = true ∧ i = 0#16 then perturb (s.keyByte 0) else s.keyByte i.toNat

/-- R111: the registers after folding one key byte. -/
def fold (s : State) : State :=
  { s with
    h := s.romByte (s.h ^^^ s.byteAt s.idx)
    idx := nextIndex s.opl s.idx
    rem := s.rem - 1#16 }

/-- R164: `interpass()`. -/
def interpass (s : State) : State :=
  { s with h1 := s.h, h := 0x00#8, idx := 0x0000#16, rem := s.keylen, pass := true }

/-- R131: `complete8()`. -/
def complete8 (s : State) : State := { s with digest := s.h.setWidth 16 }.finish

/-- R165: `complete16()`. -/
def complete16 (s : State) : State := { s with digest := ofBytes s.h1 s.h }.finish

/-- R114: `end_of_pass()`. -/
def endOfPass (s : State) : State :=
  if s.opl = .hash16 ∧ s.pass = false then s.interpass
  else if s.opl = .hash16 then s.complete16
  else s.complete8

end State

/-- R111: `fold_step()`. KEYBUF has KEY_CAP bytes (R32): an IDX beyond them has no byte to read (log 5). -/
def foldStep (s : State) : Host.Outcome State Fault Refusal :=
  if s.idx.toNat < s.params.keyCap then .next s.fold else .fault .keyIndexOutsideBuffer

/-- R110: `engine_step()`, for BUSY = 1. -/
def engineStep (s : State) : Host.Outcome State Fault Refusal :=
  if s.rem ≠ 0#16 then foldStep s else .next s.endOfPass

/-- R110: the engine's turn: a step if BUSY = 1, nothing otherwise. -/
def engineTurn (s : State) : Host.Outcome State Fault Refusal :=
  if s.busy then engineStep s else .next s

end Sys2Proof.Machine
end

