-- ==== Sys2Proof/Machine/Step.lean ====
section
/-! DEFINITION. One step: one turn of the host, the platform or the engine (20_memory.md R50, R52). -/

namespace Sys2Proof.Machine

/-- The turn at the head of `inputs`: a host transaction is decoded (R81) and executed, an engine turn is one engine
step if the engine has one, a reset is one cycle of rst = 1. With no turn listed the engine moves, so that an
accepted operation completes (R230; log 3). -/
def step (s : State) : Host.Outcome State Fault Refusal :=
  match s.inputs with
  | [] => engineTurn s
  | .host w :: rest => exec (decodeTransaction w) (s.beginPort rest)
  | .engine :: rest => engineTurn (s.takeTurn rest)
  | .reset presented :: rest => .next ((s.takeTurn rest).resetCycle presented)

/-- The state whose next step runs the instruction of an opcode-table word: its transaction stands at the head of the
turns to come (log 7). -/
def State.withFetchWord (s : State) (nbits w : Nat) : State :=
  { s with inputs := .host (fetchWord nbits w) :: s.inputs }

end Sys2Proof.Machine
end

