-- ==== Sys2Proof/Machine/Clock.lean ====
section
/-! DEFINITION. The clocked hardware (20_memory.md R51, R52; 70_reset_and_hazards.md R210, R211, R230): one rising edge
of clk, as a composition of the turns that `step` takes one at a time. -/

namespace Sys2Proof.Machine

/-- R52: the engine's part of a cycle, taken if BUSY was 1 at the cycle's start (R230). -/
def engineOfCycle (wasBusy : Bool) (o : Host.Outcome State Fault Refusal) : Host.Outcome State Fault Refusal :=
  match o with
  | .next t => if wasBusy then engineStep t else .next t
  | .fault r => .fault r
  | .refused r => .refused r

/-- One cycle with the signal rst and, if req = 1, the transaction presented. Reset comes before everything (R211);
otherwise the host transaction comes first and the engine step second (R52). rdata is valid only in the cycle of a
read (R51). -/
def tick (rst : Bool) (req : Option TxnWord) (s : State) : Host.Outcome State Fault Refusal :=
  if rst then .next (s.resetCycle req)
  else
    match req with
    | none => engineOfCycle s.busy (.next { s with rdata := none })
    | some w => engineOfCycle s.busy (exec (decodeTransaction w) { s with rdata := none })

/-- R52: the turns of the interleaving model that a cycle is equivalent to, from a state that is busy or not. -/
def turnsOfCycle (busy : Bool) (rst : Bool) (req : Option TxnWord) : List Input :=
  if rst then [.reset req]
  else (match req with | none => [] | some w => [.host w]) ++ (if busy then [.engine] else [])

end Sys2Proof.Machine
end

