-- ==== Sys2Proof/Machine/Digest.lean ====
section
/-! DEFINITION. What the operations compute, as functions of the table and the key (00_scope.md R2;
40_fold_and_loop.md R116; 42_hash16.md R161, R167): the words in which results are stated. The engine does not use
them. -/

namespace Sys2Proof.Machine

/-- R116: `Fold(h, [b0, ..., b(n-1)])`. -/
def pearsonFold (t : PermTable) : Byte → List Byte → Byte
  | h, [] => h
  | h, b :: bs => pearsonFold t (t[(h ^^^ b).toNat]'(h ^^^ b).isLt) bs

/-- R161: the key with its first byte replaced by `(key[0] + 1) mod 255`. -/
def perturbFirst : List Byte → List Byte
  | [] => []
  | k :: ks => perturb k :: ks

/-- R15: the key, `KEYBUF[0..KEYLEN-1]`. -/
def State.key (s : State) : List Byte := (List.range s.keylen.toNat).map s.keyByte

/-- R132, R151, R141, R167: what a successful command for a variant leaves in DIGEST. -/
def State.digestOf (s : State) : Variant → Half
  | .rfc3074 => (pearsonFold s.rom (loByte s.keylen) s.key.reverse).setWidth 16
  | .original => (pearsonFold s.rom 0x00#8 s.key).setWidth 16
  | .wikipedia => (pearsonFold s.rom 0x00#8 s.key).setWidth 16
  | .hash16 => ofBytes (pearsonFold s.rom 0x00#8 s.key) (pearsonFold s.rom 0x00#8 (perturbFirst s.key))

/-- R104, R105: the conditions under which an idle PHE starts the operation of a variant. -/
def State.accepts (s : State) : Variant → Prop
  | .rfc3074 => s.keylen.toNat ≤ s.params.keyCap ∧ (s.keylen.toNat ≤ 255 ∨ s.params.rfcLong = .truncate)
  | .original => s.keylen.toNat ≤ s.params.keyCap ∧ 1 ≤ s.keylen.toNat
  | .wikipedia => s.keylen.toNat ≤ s.params.keyCap
  | .hash16 => s.keylen.toNat ≤ s.params.keyCap ∧ 1 ≤ s.keylen.toNat

/-- R116: how many engine steps an accepted operation of a variant takes. -/
def State.engineSteps (s : State) : Variant → Nat
  | .rfc3074 => s.keylen.toNat + 1
  | .original => s.keylen.toNat + 1
  | .wikipedia => s.keylen.toNat + 1
  | .hash16 => 2 * s.keylen.toNat + 2

/-- R84: the instruction that starts a variant. -/
def Variant.command : Variant → Instr
  | .rfc3074 => .phRfc3074
  | .original => .phOrig
  | .wikipedia => .phWiki
  | .hash16 => .phH16

end Sys2Proof.Machine
end

