-- ==== Sys2Proof/Machine/HostProgram.lean ====
section
/-! DEFINITION. The host-program notation (30_encoding.md R89 to R92): symbols of addresses, and the
pseudo-instructions as the transaction words they expand to. The PH pseudo-instructions of R90 are
`encodeTransaction` in Decode.lean. -/

namespace Sys2Proof.Machine

/-- R89: the symbols of a host address. -/
inductive Symbol where
  | cmd
  | status
  | keylenHi
  | keylenLo
  | digestHi
  | digestLo
  | table (i : Byte)
  | keybuf (i : Half)
  deriving DecidableEq, Repr

/-- R89: the address a symbol names. -/
def Symbol.addr : Symbol → HostAddr
  | .cmd => 0x00000#17
  | .status => 0x00001#17
  | .keylenHi => 0x00002#17
  | .keylenLo => 0x00003#17
  | .digestHi => 0x00004#17
  | .digestLo => 0x00005#17
  | .table i => 0x00100#17 + i.setWidth 17
  | .keybuf i => 0x10000#17 + i.setWidth 17

/-- R89, R80: `R8 <addr>`. -/
def readWord (a : Symbol) : TxnWord := encodeTransaction (.r8 a.addr 0x00#8)

/-- R89, R80: `W8 <addr>, <byte>`. -/
def writeWord (a : Symbol) (v : Byte) : TxnWord := encodeTransaction (.w8 a.addr v)

/-- The pseudo-instructions that are more than one command byte (R91, R92). -/
inductive Pseudo where
  /-- R91: `LDKEY b0, ..., b(n-1)`. -/
  | ldkey (key : List Byte)
  /-- R92: `WAIT`, whose loop is the host's own: this many reads of STATUS and one more. -/
  | wait (again : Nat)
  /-- R92: `RDIGEST`. -/
  | rdigest
  deriving DecidableEq, Repr

/-- R91: `0 ≤ n ≤ KEY_CAP`. -/
def Pseudo.wf (keyCap : Nat) : Pseudo → Bool
  | .ldkey key => decide (key.length ≤ keyCap)
  | .wait _ => true
  | .rdigest => true

/-- R91: the writes of key bytes, the first at index `i`. -/
def keyWrites : Nat → List Byte → List TxnWord
  | _, [] => []
  | i, b :: bs => writeWord (.keybuf (BitVec.ofNat 16 i)) b :: keyWrites (i + 1) bs

/-- R91, R92: the transaction words a pseudo-instruction expands to, in order. -/
def Pseudo.expand : Pseudo → List TxnWord
  | .ldkey key =>
    writeWord .keylenHi (hiByte (BitVec.ofNat 16 key.length)) ::
      writeWord .keylenLo (loByte (BitVec.ofNat 16 key.length)) :: keyWrites 0 key
  | .wait again => List.replicate (again + 1) (readWord .status)
  | .rdigest => [readWord .digestHi, readWord .digestLo]

/-- The turns of a host that presents these words one after another. -/
def hostTurns (ws : List TxnWord) : List Input := ws.map Input.host

end Sys2Proof.Machine
end

