-- ==== Sys2Proof/Safety.lean ====
section
/-! DEFINITION. What counts as a good state and as a safe run, in the terms the statements use (10_state.md R45;
41_hash8.md R142; 60_exceptions.md R180, R181). -/

namespace Sys2Proof.Machine

/-- The invariants of R45, with those of R39 (ERR and ERRCODE), R28 (PASS), R181 (codes 5 to 7 never produced), and the
canonical form of KEYBUF. -/
structure State.Inv (s : State) : Prop where
  /-- R8: `256 ≤ KEY_CAP ≤ 65535`. -/
  params_wf : s.params.wf
  /-- R45: `PERM_TABLE` is a permutation. -/
  rom_perm : PermTable.wf s.rom
  /-- KEYBUF is in canonical form (log 2). -/
  keybuf_wf : Memory.wf s.keybuf
  /-- R32: KEYBUF has `KEY_CAP` bytes. -/
  keybuf_below : ∀ c ∈ s.keybuf, c.1 < s.params.keyCap
  /-- R45: `BUSY = 0` implies `PASS = 0`. -/
  idle_pass : s.busy = false → s.pass = false
  /-- R28: PASS is 1 only in HASH16's second pass. -/
  pass_hash16 : s.pass = true → s.opl = .hash16
  /-- R45: `BUSY = 1` implies `DONE = 0`, `ERR = 0`, `ERRCODE = 0`. -/
  busy_status : s.busy = true → s.done = false ∧ s.err = false ∧ s.errcode = 0b000#3
  /-- R45: `BUSY = 1` implies `KEYLEN ≤ KEY_CAP`. -/
  busy_keylen : s.busy = true → s.keylen.toNat ≤ s.params.keyCap
  /-- R45: `BUSY = 1` and RFC3074 implies `KEYLEN ≤ 255`, or TRUNCATE. -/
  busy_rfc3074 : s.busy = true → s.opl = .rfc3074 → s.keylen.toNat ≤ 255 ∨ s.params.rfcLong = .truncate
  /-- R45: `BUSY = 1` and ORIGINAL or HASH16 implies `KEYLEN ≥ 1`. -/
  busy_nonempty : s.busy = true → s.opl = .original ∨ s.opl = .hash16 → 1 ≤ s.keylen.toNat
  /-- R45: the walk while `BUSY = 1` and `REM > 0`, RFC3074 backward. -/
  walk_backward : s.busy = true → s.rem ≠ 0#16 → s.opl = .rfc3074 → s.idx.toNat + 1 = s.rem.toNat
  /-- R45: the walk while `BUSY = 1` and `REM > 0`, a forward pass. -/
  walk_forward : s.busy = true → s.rem ≠ 0#16 → s.opl ≠ .rfc3074 → s.idx.toNat + s.rem.toNat = s.keylen.toNat
  /-- R45: `IDX < KEYLEN` while `BUSY = 1` and `REM > 0`. -/
  walk_inside : s.busy = true → s.rem ≠ 0#16 → s.idx.toNat < s.keylen.toNat
  /-- R39: `ERR = 1` exactly when `ERRCODE ≠ 0`. -/
  err_code : s.err = true ↔ s.errcode ≠ 0b000#3
  /-- R39: `ERR = 1` implies `DONE = 1` and `BUSY = 0`. -/
  err_done : s.err = true → s.done = true ∧ s.busy = false
  /-- R181, U8: codes 5 to 7 are never produced. -/
  errcode_le : s.errcode.toNat ≤ 4

/-- The machine after `n` steps, stopping at the first that has no next state. -/
def runSteps : Nat → State → Host.Outcome State Fault Refusal
  | 0, s => .next s
  | n + 1, s =>
    match step s with
    | .next t => runSteps n t
    | .fault r => .fault r
    | .refused r => .refused r

/-- A safe run: however many turns are taken, the machine has a next state (R180: no trap, R142: no read outside). -/
def State.RunsForever (s : State) : Prop := ∀ n : Nat, ∃ t : State, runSteps n s = .next t

/-- R116: the operation that runs in `t` completes successfully in `u`, after exactly `n` steps: it is still running
after fewer. With no turn listed in `t.inputs`, every step is an engine step. -/
def State.CompletesIn (t : State) (n : Nat) (u : State) : Prop :=
  (∀ k : Nat, k < n → ∃ v : State, runSteps k t = .next v ∧ v.busy = true) ∧
  runSteps n t = .next u ∧ u.busy = false ∧ u.done = true ∧ u.err = false ∧ u.errcode = 0b000#3

/-- R184: under a policy, the byte `c` written to CMD can raise the error code `k`: from some idle state with no error
reported, a write of it reports that code. -/
def CanRaise (policy : RfcLongPolicy) (c : Byte) (k : BitVec 3) : Prop :=
  ∃ s t : State, s.params.wf ∧ s.params.rfcLong = policy ∧ s.busy = false ∧ s.err = false ∧ s.errcode = 0b000#3 ∧
    exec (.w8 0x00000#17 c) s = .next t ∧ t.err = true ∧ t.errcode = k

end Sys2Proof.Machine
end

