-- ==== Sys2Proof/Certificates/Slice0/Obligations.lean ====
section
/-! DEFINITION. The statements for the provers, from the numbered rules of spec/. -/

open Sys2Proof Sys2Proof.Machine

/-! ### Encoding -/

/-- R84: the opcode map of the command byte. Each of the 256 values is in one of these ranges; the illegal range is
cut into the five rows of the opcode table, and no byte loses a bit of RSVD or VARIANT. -/
def Obligations.CommandByteOpcodeMap : Prop :=
  decodeCommand 0x80#8 = .phRfc3074 ∧ decodeCommand 0x81#8 = .phOrig ∧ decodeCommand 0x82#8 = .phWiki ∧
  decodeCommand 0x83#8 = .phH16 ∧
  (∀ c : Byte, c.toNat ≤ 0x7F → decodeCommand c = .phNop (c.extractLsb' 2 5) (c.extractLsb' 0 2)) ∧
  (∀ c : Byte, 0x84 ≤ c.toNat → c.toNat ≤ 0x87 →
    decodeCommand c = .illegal84 (c.extractLsb' 2 5) (c.extractLsb' 0 2)) ∧
  (∀ c : Byte, 0x88 ≤ c.toNat → c.toNat ≤ 0x8F →
    decodeCommand c = .illegal88 (c.extractLsb' 2 5) (c.extractLsb' 0 2)) ∧
  (∀ c : Byte, 0x90 ≤ c.toNat → c.toNat ≤ 0x9F →
    decodeCommand c = .illegal90 (c.extractLsb' 2 5) (c.extractLsb' 0 2)) ∧
  (∀ c : Byte, 0xA0 ≤ c.toNat → c.toNat ≤ 0xBF →
    decodeCommand c = .illegalA0 (c.extractLsb' 2 5) (c.extractLsb' 0 2)) ∧
  (∀ c : Byte, 0xC0 ≤ c.toNat → decodeCommand c = .illegalC0 (c.extractLsb' 2 5) (c.extractLsb' 0 2))

/-- R80, R81: decoding a transaction word is total; its value is `WE * 2^25 + ADDR * 2^8 + DATA`; `WE` tells R8 from
W8; a read behaves the same whatever its DATA. -/
def Obligations.TransactionWordDecoding : Prop :=
  ∀ w : TxnWord, ∃ (we : BitVec 1) (a : HostAddr) (d : Byte),
    w.toNat = we.toNat * 2 ^ 25 + a.toNat * 2 ^ 8 + d.toNat ∧
    (we = 0#1 → decodeTransaction w = .r8 a d ∧ ∀ s : State, exec (.r8 a d) s = exec (.r8 a 0x00#8) s) ∧
    (we = 1#1 → decodeTransaction w = .w8 a d)

/-- Words written out from R90, R93 and the encoding vectors of 95_test_vectors.md section 2 decode to what they
stand for. -/
def Obligations.SampleWordsDecode : Prop :=
  decodeTableWord 32 0x2000083 = some (.w8 0x00000#17 0x83#8) ∧
  decodeTableWord 32 0x0000100 = some (.r8 0x00001#17 0x00#8) ∧
  decodeTableWord 32 0x2000301 = some (.w8 0x00003#17 0x01#8) ∧
  decodeTableWord 32 0x3000061 = some (.w8 0x10000#17 0x61#8) ∧
  decodeTableWord 32 0x0016100 = some (.r8 0x00161#17 0x00#8) ∧
  decodeTableWord 8 0b10000000 = some .phRfc3074 ∧ decodeTableWord 8 0b10000011 = some .phH16 ∧
  decodeTableWord 8 0b01111111 = some (.phNop 0b11111#5 0b11#2) ∧
  decodeTableWord 8 0b11000001 = some (.illegalC0 0b10000#5 0b01#2)

/-- R90: the transaction words of the command pseudo-instructions. -/
def Obligations.PseudoInstructionWords : Prop :=
  encodeTransaction .phRfc3074 = 0x2000080#26 ∧ encodeTransaction .phOrig = 0x2000081#26 ∧
  encodeTransaction .phWiki = 0x2000082#26 ∧ encodeTransaction .phH16 = 0x2000083#26 ∧
  encodeTransaction (.phNop 0#5 0#2) = 0x2000000#26

/-- Decoding an encoded well-formed instruction gives it back, with every operand. -/
def Obligations.DecodeEncodeRoundTrip : Prop := ∀ i : Instr, i.wf = true → decode (encode i) = i

/-- Every transaction word and every command byte decodes to a well-formed instruction whose encoding it is. -/
def Obligations.EncodeDecodeRoundTrip : Prop := ∀ e : Encoded, (decode e).wf = true ∧ encode (decode e) = e

/-! ### Steps -/

/-- When the host's transaction is the next turn, a step is `exec` of the instruction it decodes to (R81), at the
state whose turn is taken and whose rdata holds no byte yet (the model's turns and rdata: logs 3, 4). -/
def Obligations.StepRunsHostTransaction : Prop :=
  ∀ (s : State) (w : TxnWord) (rest : List Input), s.inputs = .host w :: rest →
    step s = exec (decodeTransaction w) { s with inputs := rest, rdata := none }

/-- When the next turn presents the transaction of a well-formed instruction, command bytes included (R90), a step is
`exec` of that instruction (the model's turns, rdata holding no byte yet, and a command byte's way in: logs 3, 4, 7). -/
def Obligations.StepRunsEncodedInstruction : Prop :=
  ∀ (s : State) (i : Instr) (rest : List Input), i.wf = true → s.inputs = .host (encodeTransaction i) :: rest →
    step s = exec i { s with inputs := rest, rdata := none }

/-- The word of an opcode-table row, placed where step fetches, runs as the instruction it decodes to. That the word is
placed at the head of `inputs`, that rdata holds no byte yet, and how a word reaches the machine are the model's choices
(logs 3, 4, 7). -/
def Obligations.FetchedWordRuns : Prop :=
  ∀ (s : State) (nbits w : Nat) (i : Instr), decodeTableWord nbits w = some i →
    step (s.withFetchWord nbits w) = exec i { s with rdata := none }

/-- R110: the engine has a step exactly while BUSY = 1, a fold if REM is not 0 and an end of pass otherwise; both with
no turn listed and at an engine turn (the model's turns: log 3). -/
def Obligations.EngineStepsWhileBusy : Prop :=
  ∀ (s t : State), (s.inputs = [] ∧ t = s ∨ ∃ rest, s.inputs = .engine :: rest ∧ t = { s with inputs := rest }) →
    (s.busy = false → step s = .next t) ∧
    (s.busy = true → s.rem ≠ 0#16 → step s = foldStep t) ∧
    (s.busy = true → s.rem = 0#16 → step s = .next t.endOfPass)

/-- R210, R211, R212: one cycle of rst = 1 gives every register its reset value whatever it held and whatever is
presented; the presented transaction does nothing but return 0x00 to a read; the ROM stays. The turns and rdata are
the model's (logs 3, 4). -/
def Obligations.ResetCycleEffect : Prop :=
  ∀ (s : State) (presented : Option TxnWord) (rest : List Input), s.inputs = .reset presented :: rest →
    ∃ t : State, step s = .next t ∧
      t.keylen = 0#16 ∧ t.digest = 0#16 ∧ t.busy = false ∧ t.done = false ∧ t.err = false ∧ t.errcode = 0#3 ∧
      t.h = 0#8 ∧ t.h1 = 0#8 ∧ t.idx = 0#16 ∧ t.rem = 0#16 ∧ t.opl.bits = 0#2 ∧ t.pass = false ∧
      t.rom = s.rom ∧ t.params = s.params ∧ t.inputs = rest ∧
      (∀ a d, presented = some (TxnWord.make 0#1 a d) → t.rdata = some 0x00#8) ∧
      (∀ a d, presented = some (TxnWord.make 1#1 a d) → t.rdata = none) ∧
      (presented = none → t.rdata = none)

/-- R43: the values after reset, and T holding PERM_TABLE, which is a permutation (R31). -/
def Obligations.ResetStateValues : Prop :=
  State.reset.keylen = 0#16 ∧ State.reset.digest = 0#16 ∧ State.reset.statusByte = 0x00#8 ∧
  State.reset.busy = false ∧ State.reset.h = 0#8 ∧ State.reset.h1 = 0#8 ∧ State.reset.idx = 0#16 ∧
  State.reset.rem = 0#16 ∧ State.reset.opl.bits = 0#2 ∧ State.reset.pass = false ∧
  State.reset.rom = Config.permTable ∧ Config.permTable.toList.Nodup

/-- The model's choice within R44 and R213 (log 2): after a reset every key byte is the free value of that reset's number
and its index, whatever KEYBUF held before. -/
def Obligations.ResetRedrawsKeyBuffer : Prop :=
  (∀ i : Nat, State.reset.keyByte i = Config.freeKeyByte 0 i) ∧
  ∀ (s t : State) (presented : Option TxnWord) (rest : List Input), s.inputs = .reset presented :: rest →
    step s = .next t → ∀ i : Nat, t.keyByte i = Config.freeKeyByte (s.keyEpoch + 1) i

/-! ### R8 -/

/-- R100: what a host read returns at every address; nothing but rdata changes. -/
def Obligations.HostReadReturnsMappedByte : Prop :=
  ∀ (s : State) (a : HostAddr) (d : Byte), ∃ v : Byte, exec (.r8 a d) s = .next { s with rdata := some v } ∧
    (a.toNat = 0x00000 → v = 0x00#8) ∧
    (a.toNat = 0x00001 → v = 0#1 ++ s.errcode ++ 0#1 ++ BitVec.ofBool s.err ++ BitVec.ofBool s.done ++
      BitVec.ofBool s.busy) ∧
    (a.toNat = 0x00002 → v.toNat = s.keylen.toNat / 256) ∧
    (a.toNat = 0x00003 → v.toNat = s.keylen.toNat % 256) ∧
    (a.toNat = 0x00004 → v.toNat = s.digest.toNat / 256) ∧
    (a.toNat = 0x00005 → v.toNat = s.digest.toNat % 256) ∧
    (∀ i : Fin 256, a.toNat = 0x00100 + i.val → v = s.rom[i]) ∧
    (∀ i : Nat, i < s.params.keyCap → a.toNat = 0x10000 + i → v = s.keyByte i) ∧
    (0x00006 ≤ a.toNat → a.toNat ≤ 0x000FF → v = 0x00#8) ∧
    (0x00200 ≤ a.toNat → a.toNat ≤ 0x0FFFF → v = 0x00#8) ∧
    (0x10000 + s.params.keyCap ≤ a.toNat → v = 0x00#8)

/-- R36: the fields of the STATUS byte a read returns, its reserved bits, its reset value, and that it is read-only;
with it the level of the outputs busy_o and done_o (R186). -/
def Obligations.StatusRegister : Prop :=
  State.reset.statusByte = 0x00#8 ∧
  ∀ (s : State) (d v : Byte), exec (.w8 0x00001#17 v) s = .next s ∧
    ∃ b : Byte, exec (.r8 0x00001#17 d) s = .next { s with rdata := some b } ∧
      b.getLsbD 0 = s.busy ∧ b.getLsbD 1 = s.done ∧ b.getLsbD 2 = s.err ∧ b.getLsbD 3 = false ∧
      b.extractLsb' 4 3 = s.errcode ∧ b.getLsbD 7 = false ∧
      s.busyO = b.getLsbD 0 ∧ s.doneO = b.getLsbD 1

/-! ### W8 -/

/-- R55: the key window. A read returns the key byte whatever BUSY is; a write stores it while idle and is ignored
while busy; no other key byte and nothing else changes. -/
def Obligations.KeyWindowReadsAndWrites : Prop :=
  ∀ (s : State) (a : HostAddr) (i : Nat) (v d : Byte), i < s.params.keyCap → a.toNat = 0x10000 + i →
    exec (.r8 a d) s = .next { s with rdata := some (s.keyByte i) } ∧
    (s.busy = true → exec (.w8 a v) s = .next s) ∧
    (s.busy = false → ∃ t : State, exec (.w8 a v) s = .next t ∧ t = { s with keybuf := t.keybuf } ∧
      t.keyByte i = v ∧ ∀ j : Nat, j ≠ i → t.keyByte j = s.keyByte j)

/-- R40: the two KEYLEN bytes, each written separately while idle, each read back as its bits. -/
def Obligations.KeylenBytes : Prop :=
  ∀ (s : State) (v d : Byte), s.busy = false →
    (∃ k : Half, exec (.w8 0x00002#17 v) s = .next { s with keylen := k } ∧
      k.toNat = v.toNat * 256 + s.keylen.toNat % 256 ∧
      exec (.r8 0x00002#17 d) { s with keylen := k } = .next { s with keylen := k, rdata := some v }) ∧
    (∃ k : Half, exec (.w8 0x00003#17 v) s = .next { s with keylen := k } ∧
      k.toNat = s.keylen.toNat / 256 * 256 + v.toNat ∧
      exec (.r8 0x00003#17 d) { s with keylen := k } = .next { s with keylen := k, rdata := some v })

/-- R56: reserved addresses read 0x00 and ignore writes; read-only registers ignore writes; CMD reads 0x00. -/
def Obligations.ReservedAndReadOnlyAddresses : Prop :=
  ∀ (s : State) (a : HostAddr) (v d : Byte),
    ((0x00006 ≤ a.toNat ∧ a.toNat ≤ 0x000FF) ∨ (0x00200 ≤ a.toNat ∧ a.toNat ≤ 0x0FFFF) ∨
        0x10000 + s.params.keyCap ≤ a.toNat →
      exec (.r8 a d) s = .next { s with rdata := some 0x00#8 } ∧ exec (.w8 a v) s = .next s) ∧
    (a.toNat = 1 ∨ a.toNat = 4 ∨ a.toNat = 5 → exec (.w8 a v) s = .next s) ∧
    (a.toNat = 0 → exec (.r8 a d) s = .next { s with rdata := some 0x00#8 })

/-- R54: the ROM window returns the ROM entry whatever BUSY is, and a write there changes nothing. -/
def Obligations.RomWindow : Prop :=
  ∀ (s : State) (a : HostAddr) (i : Fin 256) (v d : Byte), a.toNat = 0x00100 + i.val →
    exec (.r8 a d) s = .next { s with rdata := some s.rom[i] } ∧ exec (.w8 a v) s = .next s

/-- R31 through the ROM window (E10): two different addresses of the window never return the same byte. -/
def Obligations.RomWindowHoldsPermutation : Prop :=
  ∀ (s : State) (a b : HostAddr) (d : Byte), s.Inv → 0x00100 ≤ a.toNat → a.toNat ≤ 0x001FF → 0x00100 ≤ b.toNat →
    b.toNat ≤ 0x001FF → a ≠ b → ∃ x y : Byte, x ≠ y ∧ exec (.r8 a d) s = .next { s with rdata := some x } ∧
      exec (.r8 b d) s = .next { s with rdata := some y }

/-- R221: while BUSY = 1 every host write, and so every command, is ignored; reads return what the map holds. -/
def Obligations.WritesIgnoredWhileBusy : Prop :=
  ∀ s : State, s.busy = true →
    (∀ i : Instr, (∀ a d, i ≠ .r8 a d) → exec i s = .next s) ∧
    (∀ (a : HostAddr) (d : Byte), exec (.r8 a d) s = .next { s with rdata := some (s.portRead a) })

/-- R83, R90: writing a byte to CMD runs the instruction that the command byte decodes to, in every state. -/
def Obligations.CommandWriteRunsCommand : Prop :=
  ∀ (s : State) (c : Byte), exec (.w8 0x00000#17 c) s = exec (decodeCommand c) s

/-- The frame of W8: if the map takes the address to key byte `i` and BUSY = 0, every other key byte reads as before,
and otherwise every key byte does; the ROM, the parameters, DIGEST, H1 and the model's own fields never change; only a
write to CMD changes a status or loop register, and only a write to KEYLEN_HI or KEYLEN_LO changes KEYLEN. -/
def Obligations.HostWriteFrame : Prop :=
  ∀ (s t : State) (a : HostAddr) (v : Byte), exec (.w8 a v) s = .next t →
    (∀ i : Nat, targetOf s.params.keyCap a = .key i → ∀ j : Nat, j ≠ i → t.keyByte j = s.keyByte j) ∧
    ((s.busy = true ∨ ∀ i : Nat, targetOf s.params.keyCap a ≠ .key i) → ∀ j : Nat, t.keyByte j = s.keyByte j) ∧
    t.rom = s.rom ∧ t.params = s.params ∧ t.digest = s.digest ∧ t.h1 = s.h1 ∧ t.keyEpoch = s.keyEpoch ∧
    t.inputs = s.inputs ∧ t.rdata = s.rdata ∧
    (a ≠ 0x00000#17 → t = { s with keylen := t.keylen, keybuf := t.keybuf }) ∧
    (a ≠ 0x00002#17 → a ≠ 0x00003#17 → t.keylen = s.keylen)

/-- The frame of the forms that store nothing: R8 changes rdata alone; a command changes only STATUS, H, IDX, REM, OPL
and PASS. Every key byte reads as before. -/
def Obligations.ReadAndCommandFrame : Prop :=
  ∀ (s t : State) (i : Instr), (∀ a v, i ≠ .w8 a v) → exec i s = .next t →
    (∀ j : Nat, t.keyByte j = s.keyByte j) ∧
    ((∃ a d, i = .r8 a d) → t = { s with rdata := t.rdata }) ∧
    ((∀ a d, i ≠ .r8 a d) →
      t = { s with
        busy := t.busy, done := t.done, err := t.err, errcode := t.errcode
        h := t.h, idx := t.idx, rem := t.rem, opl := t.opl, pass := t.pass })

/-! ### Commands -/

/-- R103, R106: each of the four commands, idle and with its preconditions met, clears the status and starts its
operation: seed, walk, count, variant and BUSY, and nothing else. -/
def Obligations.CommandsStartOperations : Prop :=
  ∀ s : State, s.busy = false → s.keylen.toNat ≤ s.params.keyCap →
    (s.keylen.toNat ≤ 255 ∨ s.params.rfcLong = .truncate →
      exec .phRfc3074 s = .next { s with
        done := false, err := false, errcode := 0#3
        opl := .rfc3074, pass := false, h := BitVec.ofNat 8 (s.keylen.toNat % 256)
        idx := BitVec.ofNat 16 ((s.keylen.toNat + 65535) % 65536), rem := s.keylen, busy := true }) ∧
    (1 ≤ s.keylen.toNat →
      exec .phOrig s = .next { s with
        done := false, err := false, errcode := 0#3
        opl := .original, pass := false, h := 0x00#8, idx := 0x0000#16, rem := s.keylen, busy := true }) ∧
    exec .phWiki s = .next { s with
      done := false, err := false, errcode := 0#3
      opl := .wikipedia, pass := false, h := 0x00#8, idx := 0x0000#16, rem := s.keylen, busy := true } ∧
    (1 ≤ s.keylen.toNat →
      exec .phH16 s = .next { s with
        done := false, err := false, errcode := 0#3
        opl := .hash16, pass := false, h := 0x00#8, idx := 0x0000#16, rem := s.keylen, busy := true })

/-- R102: the acceptance procedure, for every byte with START = 1 written to CMD while idle, in the order of its
tests. -/
def Obligations.AcceptanceProcedure : Prop :=
  ∀ (s : State) (c : Byte), s.busy = false → c.getLsbD 7 = true →
    let clear : State := { s with done := false, err := false, errcode := 0#3 }
    let fail (code : BitVec 3) : State := { clear with err := true, errcode := code, done := true }
    let v := c.extractLsb' 0 2
    exec (.w8 0x00000#17 c) s = .next (
      if c.extractLsb' 2 5 ≠ 0#5 then fail 4#3
      else if s.keylen.toNat > s.params.keyCap then fail 3#3
      else if v = 0b00#2 ∧ s.keylen.toNat > 255 ∧ s.params.rfcLong = .reject then fail 2#3
      else if (v = 0b01#2 ∨ v = 0b11#2) ∧ s.keylen.toNat = 0 then fail 1#3
      else clear.start (Variant.ofBits v))

/-- R104: KEYLEN above KEY_CAP fails every command with code 3. -/
def Obligations.KeylenOverCapFails : Prop :=
  ∀ s : State, s.busy = false → s.keylen.toNat > s.params.keyCap →
    let t : State := { s with done := true, err := true, errcode := 3#3 }
    exec .phRfc3074 s = .next t ∧ exec .phOrig s = .next t ∧ exec .phWiki s = .next t ∧ exec .phH16 s = .next t

/-- R105: the variant preconditions, for a KEYLEN within KEY_CAP. -/
def Obligations.VariantPreconditions : Prop :=
  ∀ s : State, s.busy = false → s.keylen.toNat ≤ s.params.keyCap →
    (s.keylen.toNat > 255 → s.params.rfcLong = .reject →
      exec .phRfc3074 s = .next { s with done := true, err := true, errcode := 2#3 }) ∧
    (s.keylen.toNat > 255 → s.params.rfcLong = .truncate →
      ∃ t : State, exec .phRfc3074 s = .next t ∧ t.busy = true ∧ t.err = false) ∧
    (s.keylen.toNat = 0 → exec .phOrig s = .next { s with done := true, err := true, errcode := 1#3 } ∧
      exec .phH16 s = .next { s with done := true, err := true, errcode := 1#3 }) ∧
    (∃ t : State, exec .phWiki s = .next t ∧ t.busy = true ∧ t.err = false) ∧
    (s.keylen.toNat = 0 → ∃ t : State, exec .phRfc3074 s = .next t ∧ t.busy = true ∧ t.err = false)

/-- R182: an illegal command, idle, reports code 4 whatever KEYLEN holds and does nothing else, as each of the five
rows and as a byte written to CMD. -/
def Obligations.IllegalCommandReportsCodeFour : Prop :=
  ∀ s : State, s.busy = false →
    let t : State := { s with done := true, err := true, errcode := 4#3 }
    (∀ r v, exec (.illegalC0 r v) s = .next t ∧ exec (.illegalA0 r v) s = .next t ∧
      exec (.illegal90 r v) s = .next t ∧ exec (.illegal88 r v) s = .next t ∧ exec (.illegal84 r v) s = .next t) ∧
    (∀ c : Byte, 0x84 ≤ c.toNat → exec (.w8 0x00000#17 c) s = .next t) ∧
    (∀ c : Byte, c.toNat ≤ 0x7F → exec (.w8 0x00000#17 c) s = .next s)

/-- R85: a command byte with START = 0 changes no state, busy or idle. -/
def Obligations.NopChangesNothing : Prop :=
  ∀ s : State, (∀ r v, exec (.phNop r v) s = .next s) ∧
    ∀ c : Byte, c.toNat ≤ 0x7F → exec (.w8 0x00000#17 c) s = .next s

/-- R183: the error completion sets ERR, DONE and the code, leaves the rest, and STATUS reads
`0x06 | (code << 4)`. -/
def Obligations.ErrorCompletion : Prop :=
  ∀ (s : State) (code : ErrCode), s.busy = false →
    s.raise code = { s with err := true, errcode := code.bits, done := true } ∧
    (s.raise code).statusByte = 0x06#8 ||| (code.bits.setWidth 8 <<< 4) ∧
    ErrCode.keyEmpty.bits = 1#3 ∧ ErrCode.keyTooLong.bits = 2#3 ∧ ErrCode.keylenOverCap.bits = 3#3 ∧
    ErrCode.illegalCommand.bits = 4#3

/-- R107: after an accepted command exactly one of two things holds: an operation runs, or the command failed and
nothing but STATUS changed. -/
def Obligations.AcceptanceOutcomes : Prop :=
  ∀ (s : State) (c : Byte), s.busy = false → c.getLsbD 7 = true →
    ∃ t : State, exec (.w8 0x00000#17 c) s = .next t ∧
      let runs := t.busy = true ∧ t.done = false ∧ t.err = false
      let failed := t.busy = false ∧ t.done = true ∧ t.err = true ∧ t.errcode ≠ 0#3 ∧
        t = { s with done := t.done, err := t.err, errcode := t.errcode }
      (runs ∨ failed) ∧ ¬(runs ∧ failed)

/-- R184: which command byte can raise which code, under each policy; and nothing but a write to CMD raises any. -/
def Obligations.WhichCommandRaisesWhichCode : Prop :=
  (∀ (policy : RfcLongPolicy) (c : Byte) (k : BitVec 3), CanRaise policy c k ↔
    (c = 0x80#8 ∧ ((k = 2#3 ∧ policy = .reject) ∨ k = 3#3)) ∨
    (c = 0x81#8 ∧ (k = 1#3 ∨ k = 3#3)) ∨ (c = 0x82#8 ∧ k = 3#3) ∨ (c = 0x83#8 ∧ (k = 1#3 ∨ k = 3#3)) ∨
    (0x84 ≤ c.toNat ∧ k = 4#3)) ∧
  ∀ (s t : State) (a : HostAddr) (d : Byte),
    (exec (.r8 a d) s = .next t ∨ a ≠ 0x00000#17 ∧ exec (.w8 a d) s = .next t) →
      t.err = s.err ∧ t.errcode = s.errcode

/-- Every instruction answers a next state in every state (R180: there is no trap). -/
def Obligations.NoInstructionStops : Prop := ∀ (i : Instr) (s : State), ∃ t : State, exec i s = .next t

/-! ### The engine -/

/-- R111, R112: a fold step, busy with REM not 0 and IDX inside KEYBUF: the byte it reads, the table lookup, the index
and the count, and nothing else. -/
def Obligations.FoldStepEffect : Prop :=
  ∀ (s : State) (b : Byte), s.busy = true → s.rem ≠ 0#16 → s.idx.toNat < s.params.keyCap →
    (s.opl = .hash16 ∧ s.pass = true ∧ s.idx = 0#16 → b.toNat = ((s.keyByte 0).toNat + 1) % 255) →
    (¬(s.opl = .hash16 ∧ s.pass = true ∧ s.idx = 0#16) → b = s.keyByte s.idx.toNat) →
    engineTurn s = .next { s with
      h := s.rom[(s.h ^^^ b).toNat]'(s.h ^^^ b).isLt
      idx := if s.opl = .rfc3074 then s.idx - 1#16 else s.idx + 1#16
      rem := s.rem - 1#16 }

/-- The model's one fault (log 5): a fold whose IDX is not below KEY_CAP, which KEYBUF does not have (R32, R142). -/
def Obligations.FoldOutsideBufferFaults : Prop :=
  ∀ s : State, s.busy = true → s.rem ≠ 0#16 → s.params.keyCap ≤ s.idx.toNat →
    engineTurn s = .fault .keyIndexOutsideBuffer

/-- R114, R131, R164, R165: the three ends of a pass. -/
def Obligations.EndOfPassEffects : Prop :=
  ∀ s : State, s.busy = true → s.rem = 0#16 →
    (s.opl = .hash16 → s.pass = false →
      engineTurn s = .next { s with h1 := s.h, h := 0x00#8, idx := 0x0000#16, rem := s.keylen, pass := true }) ∧
    (s.opl = .hash16 → s.pass = true → ∃ x : Half, x.toNat = s.h1.toNat * 256 + s.h.toNat ∧
      engineTurn s = .next { s with digest := x, pass := false, busy := false, done := true }) ∧
    (s.opl ≠ .hash16 → ∃ x : Half, x.toNat = s.h.toNat ∧
      engineTurn s = .next { s with digest := x, pass := false, busy := false, done := true })

/-- R162: the substituted first byte, at every value of k0. -/
def Obligations.PerturbedByteValues : Prop :=
  (∀ k0 : Byte, k0.toNat ≤ 253 → (perturb k0).toNat = k0.toNat + 1) ∧ perturb 0xFE#8 = 0x00#8 ∧
  perturb 0xFF#8 = 0x01#8 ∧ (∀ k0 : Byte, perturb k0 ≠ 0xFF#8) ∧ perturb 0x00#8 = perturb 0xFF#8

/-- R115: for a permutation table and a fixed byte, the fold is a bijection of 0..255: the fold in which results are
stated, and, in every state that meets the invariants, the engine's own, as a function of H. -/
def Obligations.FoldIsBijection : Prop :=
  (∀ (t : PermTable) (b : Byte), PermTable.wf t → Function.Bijective (fun h : Byte => pearsonFold t h [b])) ∧
  ∀ s : State, s.Inv → Function.Bijective (fun x : Byte => ({ s with h := x } : State).fold.h)

/-! ### Results of the operations -/

/-- R132, R133: RFC3074, long keys under TRUNCATE included: the seed is KEYLEN mod 256, every byte is folded in
reverse order, and the digest stands after exactly KEYLEN + 1 engine steps. With `inputs` empty the engine alone moves,
and rdata keeps what it held (the model's choices: logs 3, 4). -/
def Obligations.Rfc3074Digest : Prop :=
  ∀ s : State, s.inputs = [] → s.busy = false → s.keylen.toNat ≤ s.params.keyCap →
    (s.keylen.toNat ≤ 255 ∨ s.params.rfcLong = .truncate) →
    ∃ t u : State, exec .phRfc3074 s = .next t ∧ t.CompletesIn (s.keylen.toNat + 1) u ∧
      u.digest.toNat = (pearsonFold s.rom (BitVec.ofNat 8 (s.keylen.toNat % 256)) s.key.reverse).toNat ∧
      u = { s with digest := u.digest, h := u.h, idx := 0xFFFF#16, rem := 0#16, opl := .rfc3074, pass := false,
                   done := true, err := false, errcode := 0#3 }

/-- R151: WIKIPEDIA's digest, and the empty key's digest 0 under WIKIPEDIA and RFC3074. With `inputs` empty the engine
alone moves, and rdata keeps what it held (the model's choices: logs 3, 4). -/
def Obligations.WikipediaDigest : Prop :=
  (∀ s : State, s.inputs = [] → s.busy = false → s.keylen.toNat ≤ s.params.keyCap →
    ∃ t u : State, exec .phWiki s = .next t ∧ t.CompletesIn (s.keylen.toNat + 1) u ∧
      u.digest.toNat = (pearsonFold s.rom 0x00#8 s.key).toNat ∧
      u = { s with digest := u.digest, h := u.h, idx := s.keylen, rem := 0#16, opl := .wikipedia, pass := false,
                   done := true, err := false, errcode := 0#3 }) ∧
  (∀ s : State, s.inputs = [] → s.busy = false → s.keylen = 0#16 →
    (∃ t u : State, exec .phWiki s = .next t ∧ t.CompletesIn 1 u ∧ u.digest = 0#16) ∧
    (∃ t u : State, exec .phRfc3074 s = .next t ∧ t.CompletesIn 1 u ∧ u.digest = 0#16))

/-- R141: ORIGINAL and WIKIPEDIA leave the same digest after the same number of engine steps for every key of length 1
to KEY_CAP; on the empty key ORIGINAL fails with KEY_EMPTY and WIKIPEDIA returns 0. With `inputs` empty the engine alone moves (the model's choice: log 3). -/
def Obligations.OriginalAgreesWithWikipedia : Prop :=
  ∀ s : State, s.inputs = [] → s.busy = false →
    (1 ≤ s.keylen.toNat → s.keylen.toNat ≤ s.params.keyCap →
      ∃ t u t' u' : State, exec .phOrig s = .next t ∧ t.CompletesIn (s.keylen.toNat + 1) u ∧
        exec .phWiki s = .next t' ∧ t'.CompletesIn (s.keylen.toNat + 1) u' ∧ u.digest = u'.digest) ∧
    (s.keylen = 0#16 → exec .phOrig s = .next { s with done := true, err := true, errcode := 1#3 } ∧
      ∃ t u : State, exec .phWiki s = .next t ∧ t.CompletesIn 1 u ∧ u.digest = 0#16)

/-- R167, R161: HASH16's digest: two forward folds of the key, the second with its first byte replaced, after exactly
2 KEYLEN + 2 engine steps; KEYBUF is as it was. With `inputs` empty the engine alone moves, and rdata keeps what it
held (the model's choices: logs 3, 4). -/
def Obligations.Hash16Digest : Prop :=
  ∀ (s : State) (k0 : Byte) (ks : List Byte), s.inputs = [] → s.busy = false → s.keylen.toNat ≤ s.params.keyCap →
    s.key = k0 :: ks →
    ∃ (t u : State) (x : Byte), exec .phH16 s = .next t ∧ t.CompletesIn (2 * s.keylen.toNat + 2) u ∧
      x.toNat = (k0.toNat + 1) % 255 ∧
      u.digest.toNat = (pearsonFold s.rom 0x00#8 (k0 :: ks)).toNat * 256 + (pearsonFold s.rom 0x00#8 (x :: ks)).toNat ∧
      u = { s with digest := u.digest, h := u.h, h1 := u.h1, idx := s.keylen, rem := 0#16, opl := .hash16,
                   pass := false, done := true, err := false, errcode := 0#3 }

/-- R168: for a key of one byte the two halves of HASH16's digest differ. With `inputs` empty the engine alone moves (the
model's choice: log 3). -/
def Obligations.Hash16HalvesDiffer : Prop :=
  ∀ s : State, s.Inv → s.inputs = [] → s.busy = false → s.keylen = 1#16 →
    ∃ t u : State, exec .phH16 s = .next t ∧ t.CompletesIn 4 u ∧ u.digest.toNat / 256 ≠ u.digest.toNat % 256

/-- R134: under REJECT a 255-byte RFC3074 key completes with ERR = 0 and a 256-byte key fails with STATUS 0x26. With
`inputs` empty the engine alone moves (the model's choice: log 3). -/
def Obligations.Rfc3074LengthBoundary : Prop :=
  ∀ s : State, s.params.wf → s.params.rfcLong = .reject → s.inputs = [] → s.busy = false →
    (s.keylen = 255#16 → ∃ t u : State, exec .phRfc3074 s = .next t ∧ t.CompletesIn 256 u) ∧
    (s.keylen = 256#16 → ∃ t : State, exec .phRfc3074 s = .next t ∧ t.err = true ∧ t.errcode = 2#3 ∧
      t.statusByte = 0x26#8)

/-- R68: the digest is a function of the table, KEYLEN, the key's bytes and the command alone: two idle states that
agree on those, whatever else differs, leave the same digest. With `inputs` empty the engine alone moves (the model's
choice: log 3). -/
def Obligations.DigestDependsOnKeyAlone : Prop :=
  ∀ (v : Variant) (s₁ s₂ : State), s₁.inputs = [] → s₂.inputs = [] → s₁.busy = false → s₂.busy = false →
    s₁.rom = s₂.rom → s₁.keylen = s₂.keylen → (∀ i : Nat, i < s₁.keylen.toNat → s₁.keyByte i = s₂.keyByte i) →
    s₁.accepts v → s₂.accepts v →
    ∃ (n : Nat) (t₁ t₂ u₁ u₂ : State), exec v.command s₁ = .next t₁ ∧ exec v.command s₂ = .next t₂ ∧
      t₁.CompletesIn n u₁ ∧ t₂.CompletesIn n u₂ ∧ u₁.digest = u₂.digest

/-- R68, R117, R52: host transactions interleaved with a running operation, reads and ignored writes alike, change
nothing: after the same number of engine turns the state is the one the engine alone reaches, but for rdata. The list
of turns is the model's form of R52's interleaving, and rdata between reads the model's choice (logs 3, 4). -/
def Obligations.HostCannotDisturbOperation : Prop :=
  ∀ (s u : State) (sched : List Input), (∀ x ∈ sched, x = .engine ∨ ∃ w, x = .host w) →
    (∀ k : Nat, k ≤ sched.count .engine → ∃ v : State, runSteps k { s with inputs := [] } = .next v ∧ v.busy = true) →
    runSteps (sched.count .engine + 1) { s with inputs := [] } = .next u →
    ∃ r : Option Byte,
      runSteps (sched.length + 1) { s with inputs := sched ++ [.engine] } = .next { u with rdata := r }

/-! ### Invariants and whole-machine rules -/

/-- R45 at reset. -/
def Obligations.InvariantsHoldAtReset : Prop := State.reset.Inv

/-- R45: every step from a state that meets the invariants gives a state that meets them. -/
def Obligations.StepKeepsInvariants : Prop := ∀ s t : State, s.Inv → step s = .next t → t.Inv

/-- From every state that meets the invariants no step ever faults or is refused: no fold reads outside KEYBUF
(R45, R142) and nothing traps (R180). Runs take the turns of `inputs` and then the engine's (the model's choice:
log 3). -/
def Obligations.InvariantStatesRunForever : Prop := ∀ s : State, s.Inv → s.RunsForever

/-- R30, R212: no transaction, no engine step and no reset changes the ROM, nor a parameter. -/
def Obligations.RomNeverChanges : Prop :=
  ∀ s t : State, step s = .next t → t.rom = s.rom ∧ t.params = s.params

/-- R41: DIGEST changes only at the successful completion of an operation, to the zero-extended H or to {H1, H}, and
at reset, to 0. -/
def Obligations.DigestWrittenOnlyAtCompletion : Prop :=
  ∀ s t : State, step s = .next t → t.digest ≠ s.digest →
    (∃ p rest, s.inputs = .reset p :: rest ∧ t.digest = 0#16) ∨
    (s.busy = true ∧ t.busy = false ∧ s.rem = 0#16 ∧ t.done = true ∧ t.err = s.err ∧
      ((s.opl ≠ .hash16 ∧ t.digest.toNat = s.h.toNat) ∨
        (s.opl = .hash16 ∧ s.pass = true ∧ t.digest.toNat = s.h1.toNat * 256 + s.h.toNat)))

/-- R24: H1 changes only at HASH16's inter-pass step, to H, and at reset, to 0. -/
def Obligations.FirstPassLatchWrites : Prop :=
  ∀ s t : State, step s = .next t → t.h1 ≠ s.h1 →
    (∃ p rest, s.inputs = .reset p :: rest ∧ t.h1 = 0#8) ∨
    (s.busy = true ∧ s.rem = 0#16 ∧ s.opl = .hash16 ∧ s.pass = false ∧ t.pass = true ∧ t.h1 = s.h)

/-- R37: BUSY rises only when a write of a command to CMD starts an operation, and falls only at the final engine step
of the operation or at reset. -/
def Obligations.BusyRisesAndFalls : Prop :=
  ∀ s t : State, step s = .next t →
    (s.busy = false → t.busy = true → ∃ (v : Variant) (rest : List Input),
      s.inputs = .host (encodeTransaction v.command) :: rest ∧ s.accepts v ∧ t.opl = v) ∧
    (s.busy = true → t.busy = false → (∃ p rest, s.inputs = .reset p :: rest) ∨
      ((s.inputs = [] ∨ ∃ rest, s.inputs = .engine :: rest) ∧ s.rem = 0#16 ∧
        (s.opl = .hash16 → s.pass = true) ∧ t.done = true))

/-- R42: the flags change only through a command written to CMD while idle, the final engine step, and reset. -/
def Obligations.FlagWriters : Prop :=
  ∀ s t : State, step s = .next t →
    (t.busy ≠ s.busy ∨ t.done ≠ s.done ∨ t.err ≠ s.err ∨ t.errcode ≠ s.errcode) →
    (∃ p rest, s.inputs = .reset p :: rest) ∨
    (∃ (c : Byte) (rest : List Input), s.busy = false ∧ c.getLsbD 7 = true ∧
      s.inputs = .host (TxnWord.make 1#1 0x00000#17 c) :: rest) ∨
    (s.busy = true ∧ s.rem = 0#16 ∧ t.busy = false ∧ t.done = true ∧ t.err = s.err ∧ t.errcode = s.errcode)

/-- R32, R33: a key byte or KEYLEN changes only by a host write to its address while idle, or at reset. -/
def Obligations.KeyWriters : Prop :=
  ∀ s t : State, step s = .next t →
    (∀ i : Nat, t.keyByte i ≠ s.keyByte i → (∃ p rest, s.inputs = .reset p :: rest) ∨
      (s.busy = false ∧ i < s.params.keyCap ∧ ∃ (a : HostAddr) (v : Byte) (rest : List Input),
        s.inputs = .host (TxnWord.make 1#1 a v) :: rest ∧ a.toNat = 0x10000 + i ∧ t.keyByte i = v)) ∧
    (t.keylen ≠ s.keylen → (∃ p rest, s.inputs = .reset p :: rest) ∨
      (s.busy = false ∧ ∃ (a : HostAddr) (v : Byte) (rest : List Input),
        s.inputs = .host (TxnWord.make 1#1 a v) :: rest ∧ (a = 0x00002#17 ∨ a = 0x00003#17)))

/-- R91 with R40 and R55: the host writes of LDKEY, presented to an idle PHE one after another, leave KEYLEN as the
key's length and the key in KEYBUF, and change nothing else of the PHE. That the turns are a list, empty at the end, and
that rdata holds no byte after a write are the model's choices (logs 3, 4). -/
def Obligations.LdkeyLoadsKey : Prop :=
  ∀ (s : State) (key : List Byte), s.busy = false → s.params.wf → (Pseudo.ldkey key).wf s.params.keyCap = true →
    s.inputs = hostTurns (Pseudo.ldkey key).expand →
    ∃ t : State, runSteps (key.length + 2) s = .next t ∧ t.key = key ∧
      (∀ i : Nat, key.length ≤ i → t.keyByte i = s.keyByte i) ∧
      t = { s with keylen := t.keylen, keybuf := t.keybuf, inputs := [], rdata := none }

/-! ### The clocked hardware -/

/-- R52: a clock cycle is the same as its turns taken one after another: the host transaction, then an engine step if
BUSY was 1 at the start; or the reset alone. The list of turns (log 3), rdata without a byte in a cycle without a read
(log 4) and the cycle standing beside `step` as `tick` (log 9) are the model's. -/
def Obligations.CycleIsInterleaving : Prop :=
  ∀ (s : State) (rst : Bool) (req : Option TxnWord), s.inputs = [] →
    tick rst req s = runSteps (turnsOfCycle s.busy rst req).length
      { s with inputs := turnsOfCycle s.busy rst req, rdata := none }

/-- R226 for the clocked hardware: STATUS read in the cycle right after a command written while idle shows 0x01 if an
operation started, and a finished error otherwise. The cycle is `tick`, beside `step` (the model's form: logs 4, 9). -/
def Obligations.StatusReadAfterCommand : Prop :=
  ∀ (s : State) (c : Byte), s.busy = false → c.getLsbD 7 = true →
    ∃ t u : State, tick false (some (TxnWord.make 1#1 0x00000#17 c)) s = .next t ∧
      tick false (some (TxnWord.make 0#1 0x00001#17 0x00#8)) t = .next u ∧
      (t.busy = true ∧ u.rdata = some 0x01#8 ∨
        t.busy = false ∧ ∃ code : ErrCode, u.rdata = some (0x06#8 ||| (code.bits.setWidth 8 <<< 4)))

/-! ### Instances -/

/-- R8: State.reset is an instance with KEY_CAP in its range and the default policy REJECT; and the state after the reset
of any other instance, one under TRUNCATE included, meets the invariants too. -/
def Obligations.InstanceParametersAtReset : Prop :=
  State.reset.params.wf ∧ State.reset.params.rfcLong = .reject ∧
  ∀ (rom : PermTable) (p : Params) (epoch : Nat) (inputs : List Input), PermTable.wf rom → p.wf →
    (State.afterReset rom p epoch inputs).Inv
end

