-- ==== Sys2Proof/Laws/Config.lean ====
section
/-! SUPPORT. The instance's open parameters lie in the ranges the spec gives them (00_scope.md R8; 10_state.md R31). -/

namespace Sys2Proof

/-- Different indexes of a permutation table hold different bytes (R31). -/
theorem PermTable.wf_inj {t : PermTable} (h : PermTable.wf t) {i j : Nat} (hi : i < 256) (hj : j < 256)
    (he : t[i] = t[j]) : i = j := by
  have hl : t.toList.length = 256 := Vector.length_toList
  refine (h.getElem_inj_iff (hi := hl.symm ▸ hi) (hj := hl.symm ▸ hj)).1 ?_
  rw [Vector.getElem_toList, Vector.getElem_toList]
  exact he

namespace Config

theorem identityTable_wf : PermTable.wf identityTable := by
  have hl : identityTable.toList = List.ofFn (fun i : Fin 256 => BitVec.ofNat 8 i.val) := by
    rw [identityTable, Vector.toList_ofFn]
  show List.Nodup _
  rw [hl, List.nodup_ofFn]
  intro i j h
  have h2 := congrArg BitVec.toNat h
  rw [BitVec.toNat_ofNat, BitVec.toNat_ofNat, Nat.mod_eq_of_lt i.isLt, Nat.mod_eq_of_lt j.isLt] at h2
  exact Fin.ext h2

theorem permTable_wf : PermTable.wf permTable := by
  unfold permTable
  split
  · assumption
  · exact identityTable_wf

theorem params_wf : params.wf := by
  have h := Nat.mod_lt rawKeyCap (show 65280 > 0 by omega)
  exact ⟨Nat.le_add_left _ _, by show rawKeyCap % 65280 + 256 ≤ 65535; omega⟩

end Config

end Sys2Proof
end

