-- ==== Sys2Proof/Laws/Decode.lean ====
section
/-! SUPPORT. The fields of what the encoder builds (30_encoding.md R80, R83). -/

namespace Sys2Proof

/-- The bits of a transaction word (R80). -/
theorem TxnWord.getLsbD_make (we : BitVec 1) (a : HostAddr) (d : Byte) (i : Nat) :
    (TxnWord.make we a d).getLsbD i =
      if i < 8 then d.getLsbD i else if i < 25 then a.getLsbD (i - 8) else we.getLsbD (i - 25) := by
  simp only [TxnWord.make, BitVec.getLsbD_or, BitVec.getLsbD_shiftLeft, BitVec.getLsbD_setWidth]
  by_cases h8 : i < 8
  · simp [h8, show i < 26 by omega, show i < 25 by omega]
  by_cases h25 : i < 25
  · simp [h8, h25, show i < 26 by omega, show i - 8 < 26 by omega, BitVec.getLsbD_of_ge d i (by omega)]
  · have ha : a.getLsbD (i - 8) = false := BitVec.getLsbD_of_ge a _ (by omega)
    have hd : d.getLsbD i = false := BitVec.getLsbD_of_ge d _ (by omega)
    by_cases h26 : i < 26
    · simp [h8, h25, h26, ha, hd, show i - 25 < 26 by omega]
    · simp [h8, h25, h26, ha, hd, BitVec.getLsbD_of_ge we (i - 25) (by omega)]

@[simp] theorem TxnWord.we_make (we : BitVec 1) (a : HostAddr) (d : Byte) : TxnWord.we (TxnWord.make we a d) = we := by
  refine BitVec.eq_of_getLsbD_eq fun i hi => ?_
  simp [TxnWord.we, hi, TxnWord.getLsbD_make]
  omega

@[simp] theorem TxnWord.addr_make (we : BitVec 1) (a : HostAddr) (d : Byte) :
    TxnWord.addr (TxnWord.make we a d) = a := by
  refine BitVec.eq_of_getLsbD_eq fun i hi => ?_
  simp only [TxnWord.addr, BitVec.getLsbD_extractLsb', hi, TxnWord.getLsbD_make]
  rw [if_neg (by omega), if_pos (by omega)]
  simp

@[simp] theorem TxnWord.data_make (we : BitVec 1) (a : HostAddr) (d : Byte) :
    TxnWord.data (TxnWord.make we a d) = d := by
  refine BitVec.eq_of_getLsbD_eq fun i hi => ?_
  simp [TxnWord.data, hi, TxnWord.getLsbD_make]

/-- A transaction word is the word of its fields. -/
theorem TxnWord.make_fields (w : TxnWord) : TxnWord.make (TxnWord.we w) (TxnWord.addr w) (TxnWord.data w) = w := by
  refine BitVec.eq_of_getLsbD_eq fun i hi => ?_
  simp only [TxnWord.getLsbD_make, TxnWord.we, TxnWord.addr, TxnWord.data, BitVec.getLsbD_extractLsb']
  split
  · simp [*]
  · split
    · simp [show i - 8 < 17 by omega, show 8 + (i - 8) = i by omega]
    · simp [show i - 25 < 1 by omega, show 25 + (i - 25) = i by omega]

theorem decodeTransaction_read (a : HostAddr) (d : Byte) : decodeTransaction (TxnWord.make 0#1 a d) = .r8 a d := by
  simp [decodeTransaction]

theorem decodeTransaction_write (a : HostAddr) (d : Byte) : decodeTransaction (TxnWord.make 1#1 a d) = .w8 a d := by
  simp [decodeTransaction]

/-- A command byte reaches the machine as a write to CMD (R90). -/
theorem decodeTransaction_command (c : Byte) :
    decodeTransaction (Encoded.command c).toTransaction = .w8 0x00000#17 c :=
  decodeTransaction_write _ _

theorem Byte.start_command : ∀ (st : BitVec 1) (r : BitVec 5) (v : BitVec 2),
    Byte.start (Byte.command st r v) = st := by decide

theorem Byte.rsvd_command : ∀ (st : BitVec 1) (r : BitVec 5) (v : BitVec 2),
    Byte.rsvd (Byte.command st r v) = r := by decide

theorem Byte.variant_command : ∀ (st : BitVec 1) (r : BitVec 5) (v : BitVec 2),
    Byte.variant (Byte.command st r v) = v := by decide

end Sys2Proof
end

