-- ==== Sys2Proof/Laws/State.lean ====
section
/-! SUPPORT. One lemma per field per named update of the state, so that no proof unfolds a record update. -/

namespace Sys2Proof.Machine.State

variable (s : State)

/-! ### clearStatus -/

@[simp] theorem clearStatus_rom : s.clearStatus.rom = s.rom := rfl
@[simp] theorem clearStatus_params : s.clearStatus.params = s.params := rfl
@[simp] theorem clearStatus_keybuf : s.clearStatus.keybuf = s.keybuf := rfl
@[simp] theorem clearStatus_keyEpoch : s.clearStatus.keyEpoch = s.keyEpoch := rfl
@[simp] theorem clearStatus_keylen : s.clearStatus.keylen = s.keylen := rfl
@[simp] theorem clearStatus_busy : s.clearStatus.busy = s.busy := rfl
@[simp] theorem clearStatus_done : s.clearStatus.done = false := rfl
@[simp] theorem clearStatus_err : s.clearStatus.err = false := rfl
@[simp] theorem clearStatus_errcode : s.clearStatus.errcode = 0b000#3 := rfl
@[simp] theorem clearStatus_digest : s.clearStatus.digest = s.digest := rfl
@[simp] theorem clearStatus_h : s.clearStatus.h = s.h := rfl
@[simp] theorem clearStatus_h1 : s.clearStatus.h1 = s.h1 := rfl
@[simp] theorem clearStatus_idx : s.clearStatus.idx = s.idx := rfl
@[simp] theorem clearStatus_rem : s.clearStatus.rem = s.rem := rfl
@[simp] theorem clearStatus_opl : s.clearStatus.opl = s.opl := rfl
@[simp] theorem clearStatus_pass : s.clearStatus.pass = s.pass := rfl
@[simp] theorem clearStatus_inputs : s.clearStatus.inputs = s.inputs := rfl
@[simp] theorem clearStatus_rdata : s.clearStatus.rdata = s.rdata := rfl

/-! ### raise -/

@[simp] theorem raise_rom (c : ErrCode) : (s.raise c).rom = s.rom := rfl
@[simp] theorem raise_params (c : ErrCode) : (s.raise c).params = s.params := rfl
@[simp] theorem raise_keybuf (c : ErrCode) : (s.raise c).keybuf = s.keybuf := rfl
@[simp] theorem raise_keyEpoch (c : ErrCode) : (s.raise c).keyEpoch = s.keyEpoch := rfl
@[simp] theorem raise_keylen (c : ErrCode) : (s.raise c).keylen = s.keylen := rfl
@[simp] theorem raise_busy (c : ErrCode) : (s.raise c).busy = s.busy := rfl
@[simp] theorem raise_done (c : ErrCode) : (s.raise c).done = true := rfl
@[simp] theorem raise_err (c : ErrCode) : (s.raise c).err = true := rfl
@[simp] theorem raise_errcode (c : ErrCode) : (s.raise c).errcode = c.bits := rfl
@[simp] theorem raise_digest (c : ErrCode) : (s.raise c).digest = s.digest := rfl
@[simp] theorem raise_h (c : ErrCode) : (s.raise c).h = s.h := rfl
@[simp] theorem raise_h1 (c : ErrCode) : (s.raise c).h1 = s.h1 := rfl
@[simp] theorem raise_idx (c : ErrCode) : (s.raise c).idx = s.idx := rfl
@[simp] theorem raise_rem (c : ErrCode) : (s.raise c).rem = s.rem := rfl
@[simp] theorem raise_opl (c : ErrCode) : (s.raise c).opl = s.opl := rfl
@[simp] theorem raise_pass (c : ErrCode) : (s.raise c).pass = s.pass := rfl
@[simp] theorem raise_inputs (c : ErrCode) : (s.raise c).inputs = s.inputs := rfl
@[simp] theorem raise_rdata (c : ErrCode) : (s.raise c).rdata = s.rdata := rfl

/-! ### finish -/

@[simp] theorem finish_rom : s.finish.rom = s.rom := rfl
@[simp] theorem finish_params : s.finish.params = s.params := rfl
@[simp] theorem finish_keybuf : s.finish.keybuf = s.keybuf := rfl
@[simp] theorem finish_keyEpoch : s.finish.keyEpoch = s.keyEpoch := rfl
@[simp] theorem finish_keylen : s.finish.keylen = s.keylen := rfl
@[simp] theorem finish_busy : s.finish.busy = false := rfl
@[simp] theorem finish_done : s.finish.done = true := rfl
@[simp] theorem finish_err : s.finish.err = s.err := rfl
@[simp] theorem finish_errcode : s.finish.errcode = s.errcode := rfl
@[simp] theorem finish_digest : s.finish.digest = s.digest := rfl
@[simp] theorem finish_h : s.finish.h = s.h := rfl
@[simp] theorem finish_h1 : s.finish.h1 = s.h1 := rfl
@[simp] theorem finish_idx : s.finish.idx = s.idx := rfl
@[simp] theorem finish_rem : s.finish.rem = s.rem := rfl
@[simp] theorem finish_opl : s.finish.opl = s.opl := rfl
@[simp] theorem finish_pass : s.finish.pass = false := rfl
@[simp] theorem finish_inputs : s.finish.inputs = s.inputs := rfl
@[simp] theorem finish_rdata : s.finish.rdata = s.rdata := rfl

/-! ### setKeyByte -/

@[simp] theorem setKeyByte_rom (i : Nat) (v : Byte) : (s.setKeyByte i v).rom = s.rom := rfl
@[simp] theorem setKeyByte_params (i : Nat) (v : Byte) : (s.setKeyByte i v).params = s.params := rfl
@[simp] theorem setKeyByte_keybuf (i : Nat) (v : Byte) : (s.setKeyByte i v).keybuf = Memory.write s.keybuf i v := rfl
@[simp] theorem setKeyByte_keyEpoch (i : Nat) (v : Byte) : (s.setKeyByte i v).keyEpoch = s.keyEpoch := rfl
@[simp] theorem setKeyByte_keylen (i : Nat) (v : Byte) : (s.setKeyByte i v).keylen = s.keylen := rfl
@[simp] theorem setKeyByte_busy (i : Nat) (v : Byte) : (s.setKeyByte i v).busy = s.busy := rfl
@[simp] theorem setKeyByte_done (i : Nat) (v : Byte) : (s.setKeyByte i v).done = s.done := rfl
@[simp] theorem setKeyByte_err (i : Nat) (v : Byte) : (s.setKeyByte i v).err = s.err := rfl
@[simp] theorem setKeyByte_errcode (i : Nat) (v : Byte) : (s.setKeyByte i v).errcode = s.errcode := rfl
@[simp] theorem setKeyByte_digest (i : Nat) (v : Byte) : (s.setKeyByte i v).digest = s.digest := rfl
@[simp] theorem setKeyByte_h (i : Nat) (v : Byte) : (s.setKeyByte i v).h = s.h := rfl
@[simp] theorem setKeyByte_h1 (i : Nat) (v : Byte) : (s.setKeyByte i v).h1 = s.h1 := rfl
@[simp] theorem setKeyByte_idx (i : Nat) (v : Byte) : (s.setKeyByte i v).idx = s.idx := rfl
@[simp] theorem setKeyByte_rem (i : Nat) (v : Byte) : (s.setKeyByte i v).rem = s.rem := rfl
@[simp] theorem setKeyByte_opl (i : Nat) (v : Byte) : (s.setKeyByte i v).opl = s.opl := rfl
@[simp] theorem setKeyByte_pass (i : Nat) (v : Byte) : (s.setKeyByte i v).pass = s.pass := rfl
@[simp] theorem setKeyByte_inputs (i : Nat) (v : Byte) : (s.setKeyByte i v).inputs = s.inputs := rfl
@[simp] theorem setKeyByte_rdata (i : Nat) (v : Byte) : (s.setKeyByte i v).rdata = s.rdata := rfl

/-! ### setKeylenHi -/

@[simp] theorem setKeylenHi_rom (v : Byte) : (s.setKeylenHi v).rom = s.rom := rfl
@[simp] theorem setKeylenHi_params (v : Byte) : (s.setKeylenHi v).params = s.params := rfl
@[simp] theorem setKeylenHi_keybuf (v : Byte) : (s.setKeylenHi v).keybuf = s.keybuf := rfl
@[simp] theorem setKeylenHi_keyEpoch (v : Byte) : (s.setKeylenHi v).keyEpoch = s.keyEpoch := rfl
@[simp] theorem setKeylenHi_keylen (v : Byte) : (s.setKeylenHi v).keylen = ofBytes v (loByte s.keylen) := rfl
@[simp] theorem setKeylenHi_busy (v : Byte) : (s.setKeylenHi v).busy = s.busy := rfl
@[simp] theorem setKeylenHi_done (v : Byte) : (s.setKeylenHi v).done = s.done := rfl
@[simp] theorem setKeylenHi_err (v : Byte) : (s.setKeylenHi v).err = s.err := rfl
@[simp] theorem setKeylenHi_errcode (v : Byte) : (s.setKeylenHi v).errcode = s.errcode := rfl
@[simp] theorem setKeylenHi_digest (v : Byte) : (s.setKeylenHi v).digest = s.digest := rfl
@[simp] theorem setKeylenHi_h (v : Byte) : (s.setKeylenHi v).h = s.h := rfl
@[simp] theorem setKeylenHi_h1 (v : Byte) : (s.setKeylenHi v).h1 = s.h1 := rfl
@[simp] theorem setKeylenHi_idx (v : Byte) : (s.setKeylenHi v).idx = s.idx := rfl
@[simp] theorem setKeylenHi_rem (v : Byte) : (s.setKeylenHi v).rem = s.rem := rfl
@[simp] theorem setKeylenHi_opl (v : Byte) : (s.setKeylenHi v).opl = s.opl := rfl
@[simp] theorem setKeylenHi_pass (v : Byte) : (s.setKeylenHi v).pass = s.pass := rfl
@[simp] theorem setKeylenHi_inputs (v : Byte) : (s.setKeylenHi v).inputs = s.inputs := rfl
@[simp] theorem setKeylenHi_rdata (v : Byte) : (s.setKeylenHi v).rdata = s.rdata := rfl

/-! ### setKeylenLo -/

@[simp] theorem setKeylenLo_rom (v : Byte) : (s.setKeylenLo v).rom = s.rom := rfl
@[simp] theorem setKeylenLo_params (v : Byte) : (s.setKeylenLo v).params = s.params := rfl
@[simp] theorem setKeylenLo_keybuf (v : Byte) : (s.setKeylenLo v).keybuf = s.keybuf := rfl
@[simp] theorem setKeylenLo_keyEpoch (v : Byte) : (s.setKeylenLo v).keyEpoch = s.keyEpoch := rfl
@[simp] theorem setKeylenLo_keylen (v : Byte) : (s.setKeylenLo v).keylen = ofBytes (hiByte s.keylen) v := rfl
@[simp] theorem setKeylenLo_busy (v : Byte) : (s.setKeylenLo v).busy = s.busy := rfl
@[simp] theorem setKeylenLo_done (v : Byte) : (s.setKeylenLo v).done = s.done := rfl
@[simp] theorem setKeylenLo_err (v : Byte) : (s.setKeylenLo v).err = s.err := rfl
@[simp] theorem setKeylenLo_errcode (v : Byte) : (s.setKeylenLo v).errcode = s.errcode := rfl
@[simp] theorem setKeylenLo_digest (v : Byte) : (s.setKeylenLo v).digest = s.digest := rfl
@[simp] theorem setKeylenLo_h (v : Byte) : (s.setKeylenLo v).h = s.h := rfl
@[simp] theorem setKeylenLo_h1 (v : Byte) : (s.setKeylenLo v).h1 = s.h1 := rfl
@[simp] theorem setKeylenLo_idx (v : Byte) : (s.setKeylenLo v).idx = s.idx := rfl
@[simp] theorem setKeylenLo_rem (v : Byte) : (s.setKeylenLo v).rem = s.rem := rfl
@[simp] theorem setKeylenLo_opl (v : Byte) : (s.setKeylenLo v).opl = s.opl := rfl
@[simp] theorem setKeylenLo_pass (v : Byte) : (s.setKeylenLo v).pass = s.pass := rfl
@[simp] theorem setKeylenLo_inputs (v : Byte) : (s.setKeylenLo v).inputs = s.inputs := rfl
@[simp] theorem setKeylenLo_rdata (v : Byte) : (s.setKeylenLo v).rdata = s.rdata := rfl

/-! ### driveRead -/

@[simp] theorem driveRead_rom (v : Byte) : (s.driveRead v).rom = s.rom := rfl
@[simp] theorem driveRead_params (v : Byte) : (s.driveRead v).params = s.params := rfl
@[simp] theorem driveRead_keybuf (v : Byte) : (s.driveRead v).keybuf = s.keybuf := rfl
@[simp] theorem driveRead_keyEpoch (v : Byte) : (s.driveRead v).keyEpoch = s.keyEpoch := rfl
@[simp] theorem driveRead_keylen (v : Byte) : (s.driveRead v).keylen = s.keylen := rfl
@[simp] theorem driveRead_busy (v : Byte) : (s.driveRead v).busy = s.busy := rfl
@[simp] theorem driveRead_done (v : Byte) : (s.driveRead v).done = s.done := rfl
@[simp] theorem driveRead_err (v : Byte) : (s.driveRead v).err = s.err := rfl
@[simp] theorem driveRead_errcode (v : Byte) : (s.driveRead v).errcode = s.errcode := rfl
@[simp] theorem driveRead_digest (v : Byte) : (s.driveRead v).digest = s.digest := rfl
@[simp] theorem driveRead_h (v : Byte) : (s.driveRead v).h = s.h := rfl
@[simp] theorem driveRead_h1 (v : Byte) : (s.driveRead v).h1 = s.h1 := rfl
@[simp] theorem driveRead_idx (v : Byte) : (s.driveRead v).idx = s.idx := rfl
@[simp] theorem driveRead_rem (v : Byte) : (s.driveRead v).rem = s.rem := rfl
@[simp] theorem driveRead_opl (v : Byte) : (s.driveRead v).opl = s.opl := rfl
@[simp] theorem driveRead_pass (v : Byte) : (s.driveRead v).pass = s.pass := rfl
@[simp] theorem driveRead_inputs (v : Byte) : (s.driveRead v).inputs = s.inputs := rfl
@[simp] theorem driveRead_rdata (v : Byte) : (s.driveRead v).rdata = some v := rfl

/-! ### start -/

@[simp] theorem start_rom (v : Variant) : (s.start v).rom = s.rom := rfl
@[simp] theorem start_params (v : Variant) : (s.start v).params = s.params := rfl
@[simp] theorem start_keybuf (v : Variant) : (s.start v).keybuf = s.keybuf := rfl
@[simp] theorem start_keyEpoch (v : Variant) : (s.start v).keyEpoch = s.keyEpoch := rfl
@[simp] theorem start_keylen (v : Variant) : (s.start v).keylen = s.keylen := rfl
@[simp] theorem start_busy (v : Variant) : (s.start v).busy = true := rfl
@[simp] theorem start_done (v : Variant) : (s.start v).done = s.done := rfl
@[simp] theorem start_err (v : Variant) : (s.start v).err = s.err := rfl
@[simp] theorem start_errcode (v : Variant) : (s.start v).errcode = s.errcode := rfl
@[simp] theorem start_digest (v : Variant) : (s.start v).digest = s.digest := rfl
@[simp] theorem start_h (v : Variant) : (s.start v).h = if v = .rfc3074 then loByte s.keylen else 0x00#8 := rfl
@[simp] theorem start_h1 (v : Variant) : (s.start v).h1 = s.h1 := rfl
@[simp] theorem start_idx (v : Variant) : (s.start v).idx = if v = .rfc3074 then s.keylen - 1#16 else 0x0000#16 := rfl
@[simp] theorem start_rem (v : Variant) : (s.start v).rem = s.keylen := rfl
@[simp] theorem start_opl (v : Variant) : (s.start v).opl = v := rfl
@[simp] theorem start_pass (v : Variant) : (s.start v).pass = false := rfl
@[simp] theorem start_inputs (v : Variant) : (s.start v).inputs = s.inputs := rfl
@[simp] theorem start_rdata (v : Variant) : (s.start v).rdata = s.rdata := rfl

/-! ### fold -/

@[simp] theorem fold_rom : s.fold.rom = s.rom := rfl
@[simp] theorem fold_params : s.fold.params = s.params := rfl
@[simp] theorem fold_keybuf : s.fold.keybuf = s.keybuf := rfl
@[simp] theorem fold_keyEpoch : s.fold.keyEpoch = s.keyEpoch := rfl
@[simp] theorem fold_keylen : s.fold.keylen = s.keylen := rfl
@[simp] theorem fold_busy : s.fold.busy = s.busy := rfl
@[simp] theorem fold_done : s.fold.done = s.done := rfl
@[simp] theorem fold_err : s.fold.err = s.err := rfl
@[simp] theorem fold_errcode : s.fold.errcode = s.errcode := rfl
@[simp] theorem fold_digest : s.fold.digest = s.digest := rfl
@[simp] theorem fold_h : s.fold.h = s.romByte (s.h ^^^ s.byteAt s.idx) := rfl
@[simp] theorem fold_h1 : s.fold.h1 = s.h1 := rfl
@[simp] theorem fold_idx : s.fold.idx = nextIndex s.opl s.idx := rfl
@[simp] theorem fold_rem : s.fold.rem = s.rem - 1#16 := rfl
@[simp] theorem fold_opl : s.fold.opl = s.opl := rfl
@[simp] theorem fold_pass : s.fold.pass = s.pass := rfl
@[simp] theorem fold_inputs : s.fold.inputs = s.inputs := rfl
@[simp] theorem fold_rdata : s.fold.rdata = s.rdata := rfl

/-! ### interpass -/

@[simp] theorem interpass_rom : s.interpass.rom = s.rom := rfl
@[simp] theorem interpass_params : s.interpass.params = s.params := rfl
@[simp] theorem interpass_keybuf : s.interpass.keybuf = s.keybuf := rfl
@[simp] theorem interpass_keyEpoch : s.interpass.keyEpoch = s.keyEpoch := rfl
@[simp] theorem interpass_keylen : s.interpass.keylen = s.keylen := rfl
@[simp] theorem interpass_busy : s.interpass.busy = s.busy := rfl
@[simp] theorem interpass_done : s.interpass.done = s.done := rfl
@[simp] theorem interpass_err : s.interpass.err = s.err := rfl
@[simp] theorem interpass_errcode : s.interpass.errcode = s.errcode := rfl
@[simp] theorem interpass_digest : s.interpass.digest = s.digest := rfl
@[simp] theorem interpass_h : s.interpass.h = 0x00#8 := rfl
@[simp] theorem interpass_h1 : s.interpass.h1 = s.h := rfl
@[simp] theorem interpass_idx : s.interpass.idx = 0x0000#16 := rfl
@[simp] theorem interpass_rem : s.interpass.rem = s.keylen := rfl
@[simp] theorem interpass_opl : s.interpass.opl = s.opl := rfl
@[simp] theorem interpass_pass : s.interpass.pass = true := rfl
@[simp] theorem interpass_inputs : s.interpass.inputs = s.inputs := rfl
@[simp] theorem interpass_rdata : s.interpass.rdata = s.rdata := rfl

/-! ### complete8 -/

@[simp] theorem complete8_rom : s.complete8.rom = s.rom := rfl
@[simp] theorem complete8_params : s.complete8.params = s.params := rfl
@[simp] theorem complete8_keybuf : s.complete8.keybuf = s.keybuf := rfl
@[simp] theorem complete8_keyEpoch : s.complete8.keyEpoch = s.keyEpoch := rfl
@[simp] theorem complete8_keylen : s.complete8.keylen = s.keylen := rfl
@[simp] theorem complete8_busy : s.complete8.busy = false := rfl
@[simp] theorem complete8_done : s.complete8.done = true := rfl
@[simp] theorem complete8_err : s.complete8.err = s.err := rfl
@[simp] theorem complete8_errcode : s.complete8.errcode = s.errcode := rfl
@[simp] theorem complete8_digest : s.complete8.digest = s.h.setWidth 16 := rfl
@[simp] theorem complete8_h : s.complete8.h = s.h := rfl
@[simp] theorem complete8_h1 : s.complete8.h1 = s.h1 := rfl
@[simp] theorem complete8_idx : s.complete8.idx = s.idx := rfl
@[simp] theorem complete8_rem : s.complete8.rem = s.rem := rfl
@[simp] theorem complete8_opl : s.complete8.opl = s.opl := rfl
@[simp] theorem complete8_pass : s.complete8.pass = false := rfl
@[simp] theorem complete8_inputs : s.complete8.inputs = s.inputs := rfl
@[simp] theorem complete8_rdata : s.complete8.rdata = s.rdata := rfl

/-! ### complete16 -/

@[simp] theorem complete16_rom : s.complete16.rom = s.rom := rfl
@[simp] theorem complete16_params : s.complete16.params = s.params := rfl
@[simp] theorem complete16_keybuf : s.complete16.keybuf = s.keybuf := rfl
@[simp] theorem complete16_keyEpoch : s.complete16.keyEpoch = s.keyEpoch := rfl
@[simp] theorem complete16_keylen : s.complete16.keylen = s.keylen := rfl
@[simp] theorem complete16_busy : s.complete16.busy = false := rfl
@[simp] theorem complete16_done : s.complete16.done = true := rfl
@[simp] theorem complete16_err : s.complete16.err = s.err := rfl
@[simp] theorem complete16_errcode : s.complete16.errcode = s.errcode := rfl
@[simp] theorem complete16_digest : s.complete16.digest = ofBytes s.h1 s.h := rfl
@[simp] theorem complete16_h : s.complete16.h = s.h := rfl
@[simp] theorem complete16_h1 : s.complete16.h1 = s.h1 := rfl
@[simp] theorem complete16_idx : s.complete16.idx = s.idx := rfl
@[simp] theorem complete16_rem : s.complete16.rem = s.rem := rfl
@[simp] theorem complete16_opl : s.complete16.opl = s.opl := rfl
@[simp] theorem complete16_pass : s.complete16.pass = false := rfl
@[simp] theorem complete16_inputs : s.complete16.inputs = s.inputs := rfl
@[simp] theorem complete16_rdata : s.complete16.rdata = s.rdata := rfl

/-! ### takeTurn -/

@[simp] theorem takeTurn_rom (rest : List Input) : (s.takeTurn rest).rom = s.rom := rfl
@[simp] theorem takeTurn_params (rest : List Input) : (s.takeTurn rest).params = s.params := rfl
@[simp] theorem takeTurn_keybuf (rest : List Input) : (s.takeTurn rest).keybuf = s.keybuf := rfl
@[simp] theorem takeTurn_keyEpoch (rest : List Input) : (s.takeTurn rest).keyEpoch = s.keyEpoch := rfl
@[simp] theorem takeTurn_keylen (rest : List Input) : (s.takeTurn rest).keylen = s.keylen := rfl
@[simp] theorem takeTurn_busy (rest : List Input) : (s.takeTurn rest).busy = s.busy := rfl
@[simp] theorem takeTurn_done (rest : List Input) : (s.takeTurn rest).done = s.done := rfl
@[simp] theorem takeTurn_err (rest : List Input) : (s.takeTurn rest).err = s.err := rfl
@[simp] theorem takeTurn_errcode (rest : List Input) : (s.takeTurn rest).errcode = s.errcode := rfl
@[simp] theorem takeTurn_digest (rest : List Input) : (s.takeTurn rest).digest = s.digest := rfl
@[simp] theorem takeTurn_h (rest : List Input) : (s.takeTurn rest).h = s.h := rfl
@[simp] theorem takeTurn_h1 (rest : List Input) : (s.takeTurn rest).h1 = s.h1 := rfl
@[simp] theorem takeTurn_idx (rest : List Input) : (s.takeTurn rest).idx = s.idx := rfl
@[simp] theorem takeTurn_rem (rest : List Input) : (s.takeTurn rest).rem = s.rem := rfl
@[simp] theorem takeTurn_opl (rest : List Input) : (s.takeTurn rest).opl = s.opl := rfl
@[simp] theorem takeTurn_pass (rest : List Input) : (s.takeTurn rest).pass = s.pass := rfl
@[simp] theorem takeTurn_inputs (rest : List Input) : (s.takeTurn rest).inputs = rest := rfl
@[simp] theorem takeTurn_rdata (rest : List Input) : (s.takeTurn rest).rdata = s.rdata := rfl

/-! ### beginPort -/

@[simp] theorem beginPort_rom (rest : List Input) : (s.beginPort rest).rom = s.rom := rfl
@[simp] theorem beginPort_params (rest : List Input) : (s.beginPort rest).params = s.params := rfl
@[simp] theorem beginPort_keybuf (rest : List Input) : (s.beginPort rest).keybuf = s.keybuf := rfl
@[simp] theorem beginPort_keyEpoch (rest : List Input) : (s.beginPort rest).keyEpoch = s.keyEpoch := rfl
@[simp] theorem beginPort_keylen (rest : List Input) : (s.beginPort rest).keylen = s.keylen := rfl
@[simp] theorem beginPort_busy (rest : List Input) : (s.beginPort rest).busy = s.busy := rfl
@[simp] theorem beginPort_done (rest : List Input) : (s.beginPort rest).done = s.done := rfl
@[simp] theorem beginPort_err (rest : List Input) : (s.beginPort rest).err = s.err := rfl
@[simp] theorem beginPort_errcode (rest : List Input) : (s.beginPort rest).errcode = s.errcode := rfl
@[simp] theorem beginPort_digest (rest : List Input) : (s.beginPort rest).digest = s.digest := rfl
@[simp] theorem beginPort_h (rest : List Input) : (s.beginPort rest).h = s.h := rfl
@[simp] theorem beginPort_h1 (rest : List Input) : (s.beginPort rest).h1 = s.h1 := rfl
@[simp] theorem beginPort_idx (rest : List Input) : (s.beginPort rest).idx = s.idx := rfl
@[simp] theorem beginPort_rem (rest : List Input) : (s.beginPort rest).rem = s.rem := rfl
@[simp] theorem beginPort_opl (rest : List Input) : (s.beginPort rest).opl = s.opl := rfl
@[simp] theorem beginPort_pass (rest : List Input) : (s.beginPort rest).pass = s.pass := rfl
@[simp] theorem beginPort_inputs (rest : List Input) : (s.beginPort rest).inputs = rest := rfl
@[simp] theorem beginPort_rdata (rest : List Input) : (s.beginPort rest).rdata = none := rfl

/-! ### resetCycle -/

@[simp] theorem resetCycle_rom (p : Option TxnWord) : (s.resetCycle p).rom = s.rom := rfl
@[simp] theorem resetCycle_params (p : Option TxnWord) : (s.resetCycle p).params = s.params := rfl
@[simp] theorem resetCycle_keybuf (p : Option TxnWord) : (s.resetCycle p).keybuf = [] := rfl
@[simp] theorem resetCycle_keyEpoch (p : Option TxnWord) : (s.resetCycle p).keyEpoch = s.keyEpoch + 1 := rfl
@[simp] theorem resetCycle_keylen (p : Option TxnWord) : (s.resetCycle p).keylen = 0x0000#16 := rfl
@[simp] theorem resetCycle_busy (p : Option TxnWord) : (s.resetCycle p).busy = false := rfl
@[simp] theorem resetCycle_done (p : Option TxnWord) : (s.resetCycle p).done = false := rfl
@[simp] theorem resetCycle_err (p : Option TxnWord) : (s.resetCycle p).err = false := rfl
@[simp] theorem resetCycle_errcode (p : Option TxnWord) : (s.resetCycle p).errcode = 0b000#3 := rfl
@[simp] theorem resetCycle_digest (p : Option TxnWord) : (s.resetCycle p).digest = 0x0000#16 := rfl
@[simp] theorem resetCycle_h (p : Option TxnWord) : (s.resetCycle p).h = 0x00#8 := rfl
@[simp] theorem resetCycle_h1 (p : Option TxnWord) : (s.resetCycle p).h1 = 0x00#8 := rfl
@[simp] theorem resetCycle_idx (p : Option TxnWord) : (s.resetCycle p).idx = 0x0000#16 := rfl
@[simp] theorem resetCycle_rem (p : Option TxnWord) : (s.resetCycle p).rem = 0x0000#16 := rfl
@[simp] theorem resetCycle_opl (p : Option TxnWord) : (s.resetCycle p).opl = .rfc3074 := rfl
@[simp] theorem resetCycle_pass (p : Option TxnWord) : (s.resetCycle p).pass = false := rfl
@[simp] theorem resetCycle_inputs (p : Option TxnWord) : (s.resetCycle p).inputs = s.inputs := rfl
@[simp] theorem resetCycle_rdata (p : Option TxnWord) : (s.resetCycle p).rdata = State.resetRead p := rfl

end Sys2Proof.Machine.State
end

