-- ==== Sys2Proof/Laws/Memory.lean ====
section
/-! SUPPORT. KEYBUF's laws: reading after writing, the canonical form kept, and the bound on its indexes kept. -/

namespace Sys2Proof.Machine

namespace Memory

theorem read_write_same (m : Memory) (i : Nat) (v : Byte) : read (write m i v) i = some v := by
  induction m with
  | nil => simp [write, read]
  | cons c m ih =>
    obtain ⟨a, b⟩ := c
    simp only [write]
    split
    · simp [read]
    · split
      · simp [read]
      · rename_i hlt hne
        simp [read, Ne.symm hne, ih]

theorem read_write_other (m : Memory) {i j : Nat} (v : Byte) (h : j ≠ i) : read (write m i v) j = read m j := by
  induction m with
  | nil => simp [write, read, Ne.symm h]
  | cons c m ih =>
    obtain ⟨a, b⟩ := c
    simp only [write]
    split
    · simp [read, Ne.symm h]
    · split
      · rename_i _ heq
        subst heq
        simp [read, Ne.symm h]
      · simp [read, ih]

/-- What a write can put into the list: the byte written, or a cell that was there. -/
theorem mem_write {m : Memory} {i : Nat} {v : Byte} {c : Host.Cell} (h : c ∈ write m i v) : c = (i, v) ∨ c ∈ m := by
  induction m with
  | nil => simpa [write] using h
  | cons d m ih =>
    obtain ⟨a, b⟩ := d
    simp only [write] at h
    split at h
    · simpa using h
    · split at h
      · rcases List.mem_cons.1 h with h | h
        · exact .inl h
        · exact .inr (List.mem_cons_of_mem _ h)
      · rcases List.mem_cons.1 h with h | h
        · exact .inr (h ▸ List.mem_cons_self)
        · exact (ih h).imp id (List.mem_cons_of_mem _)

theorem wf_nil : Memory.wf [] := List.Pairwise.nil

theorem wf_write {m : Memory} (h : Memory.wf m) (i : Nat) (v : Byte) : Memory.wf (write m i v) := by
  induction m with
  | nil => simp [write, Memory.wf]
  | cons c m ih =>
    obtain ⟨a, b⟩ := c
    have hc := List.pairwise_cons.1 h
    simp only [write]
    split
    · rename_i hlt
      refine List.pairwise_cons.2 ⟨fun d hd => ?_, h⟩
      rcases List.mem_cons.1 hd with rfl | hd
      · exact hlt
      · exact hlt.trans (hc.1 d hd)
    · split
      · rename_i _ heq
        subst heq
        exact List.pairwise_cons.2 ⟨fun d hd => hc.1 d hd, hc.2⟩
      · rename_i hlt hne
        refine List.pairwise_cons.2 ⟨fun d hd => ?_, ih hc.2⟩
        rcases mem_write hd with rfl | hd
        · exact lt_of_le_of_ne (not_lt.1 hlt) (Ne.symm hne)
        · exact hc.1 d hd

end Memory

namespace State

theorem keyByte_setKeyByte_same (s : State) (i : Nat) (v : Byte) : (s.setKeyByte i v).keyByte i = v := by
  simp [keyByte, Memory.read_write_same]

theorem keyByte_setKeyByte_other (s : State) {i j : Nat} (v : Byte) (h : j ≠ i) :
    (s.setKeyByte i v).keyByte j = s.keyByte j := by
  simp [keyByte, Memory.read_write_other _ v h]

/-- Reading KEYBUF depends on the stored bytes and the draw alone. -/
theorem keyByte_congr {s t : State} (hm : t.keybuf = s.keybuf) (he : t.keyEpoch = s.keyEpoch) (i : Nat) :
    t.keyByte i = s.keyByte i := by
  simp [keyByte, hm, he]

/-- The memory of the reset state is in canonical form. -/
theorem reset_keybuf_wf : Memory.wf State.reset.keybuf := Memory.wf_nil

end State

end Sys2Proof.Machine
end

