-- ==== Sys2Proof/Laws/Operands.lean ====
section
/-! SUPPORT. The bytes of a 16-bit register (20_memory.md R59), and the address map read from either side (R53). -/

namespace Sys2Proof.Machine

@[simp] theorem hiByte_ofBytes (hi lo : Byte) : hiByte (ofBytes hi lo) = hi := by
  refine BitVec.eq_of_getLsbD_eq fun i h => ?_
  simp only [hiByte, ofBytes, BitVec.getLsbD_extractLsb', BitVec.getLsbD_or, BitVec.getLsbD_shiftLeft,
    BitVec.getLsbD_setWidth]
  simp [h, show 8 + i < 16 by omega, show i < 16 by omega]

@[simp] theorem loByte_ofBytes (hi lo : Byte) : loByte (ofBytes hi lo) = lo := by
  refine BitVec.eq_of_getLsbD_eq fun i h => ?_
  simp only [loByte, ofBytes, BitVec.getLsbD_extractLsb', BitVec.getLsbD_or, BitVec.getLsbD_shiftLeft,
    BitVec.getLsbD_setWidth]
  simp [h, show i < 16 by omega]

theorem toNat_ofBytes (hi lo : Byte) : (ofBytes hi lo).toNat = hi.toNat * 256 + lo.toNat := by
  have hh := hi.isLt
  have hl := lo.isLt
  simp only [ofBytes, BitVec.toNat_or, BitVec.toNat_shiftLeft, BitVec.toNat_setWidth]
  rw [Nat.mod_eq_of_lt (by omega), Nat.mod_eq_of_lt (a := lo.toNat) (by omega), Nat.shiftLeft_eq,
    Nat.mod_eq_of_lt (by omega), Nat.mul_comm, ← Nat.two_pow_add_eq_or_of_lt hl]

theorem toNat_hiByte (x : Half) : (hiByte x).toNat = x.toNat / 256 := by
  have hx := x.isLt
  simp only [hiByte, BitVec.extractLsb'_toNat, Nat.shiftRight_eq_div_pow]
  omega

theorem toNat_loByte (x : Half) : (loByte x).toNat = x.toNat % 256 := by
  simp only [loByte, BitVec.extractLsb'_toNat, Nat.shiftRight_zero]

/-- A 16-bit value is the value of its two bytes. -/
theorem ofBytes_bytes (x : Half) : ofBytes (hiByte x) (loByte x) = x := by
  refine BitVec.eq_of_getLsbD_eq fun i h => ?_
  simp only [hiByte, loByte, ofBytes, BitVec.getLsbD_extractLsb', BitVec.getLsbD_or, BitVec.getLsbD_shiftLeft,
    BitVec.getLsbD_setWidth]
  by_cases h8 : i < 8
  · simp [h, h8]
  · simp [h, h8, show i - 8 < 16 by omega, show i - 8 < 8 by omega, show 8 + (i - 8) = i by omega]

theorem targetOf_cmd (k : Nat) : targetOf k 0x00000#17 = .cmd := rfl
theorem targetOf_status (k : Nat) : targetOf k 0x00001#17 = .status := rfl
theorem targetOf_keylenHi (k : Nat) : targetOf k 0x00002#17 = .keylenHi := rfl
theorem targetOf_keylenLo (k : Nat) : targetOf k 0x00003#17 = .keylenLo := rfl
theorem targetOf_digestHi (k : Nat) : targetOf k 0x00004#17 = .digestHi := rfl
theorem targetOf_digestLo (k : Nat) : targetOf k 0x00005#17 = .digestLo := rfl

/-- R54: the ROM window. -/
theorem targetOf_table (k : Nat) {a : HostAddr} {i : Nat} (hi : i < 256) (h : a.toNat = 0x00100 + i) :
    targetOf k a = .table (BitVec.ofNat 8 i) := by
  simp only [targetOf, h]
  repeat rw [if_neg (by omega)]
  rw [if_pos (by omega), show 0x00100 + i - 0x00100 = i by omega]

/-- R55: the key window. -/
theorem targetOf_key (k : Nat) {a : HostAddr} {i : Nat} (hi : i < k) (h : a.toNat = 0x10000 + i) :
    targetOf k a = .key i := by
  have hs : a.toNat - 0x10000 = i := by omega
  simp only [targetOf]
  repeat rw [if_neg (by omega)]
  rw [if_pos (by omega)]
  exact congrArg Target.key hs

/-- R53, R56: the reserved ranges. -/
theorem targetOf_reserved (k : Nat) {a : HostAddr}
    (h : (0x00006 ≤ a.toNat ∧ a.toNat ≤ 0x000FF) ∨ (0x00200 ≤ a.toNat ∧ a.toNat ≤ 0x0FFFF) ∨ 0x10000 + k ≤ a.toNat) :
    targetOf k a = .reserved := by
  simp only [targetOf]
  repeat rw [if_neg (by omega)]

/-- The map read backwards: only an address of the key window reaches a key byte. -/
theorem targetOf_eq_key {k : Nat} {a : HostAddr} {i : Nat} (h : targetOf k a = .key i) :
    a.toNat = 0x10000 + i ∧ i < k := by
  simp only [targetOf] at h
  split_ifs at h with h0 h1 h2 h3 h4 h5 h6 h7
  injection h with h
  omega

theorem targetOf_eq_cmd {k : Nat} {a : HostAddr} (h : targetOf k a = .cmd) : a = 0x00000#17 := by
  simp only [targetOf] at h
  split_ifs at h with h0
  exact BitVec.eq_of_toNat_eq h0

theorem targetOf_eq_keylenHi {k : Nat} {a : HostAddr} (h : targetOf k a = .keylenHi) : a = 0x00002#17 := by
  simp only [targetOf] at h
  split_ifs at h with h0 h1 h2
  exact BitVec.eq_of_toNat_eq h2

theorem targetOf_eq_keylenLo {k : Nat} {a : HostAddr} (h : targetOf k a = .keylenLo) : a = 0x00003#17 := by
  simp only [targetOf] at h
  split_ifs at h with h0 h1 h2 h3
  exact BitVec.eq_of_toNat_eq h3

end Sys2Proof.Machine
end

