-- ==== Sys2Proof/Laws/Ops.lean ====
section
/-! SUPPORT. What each shared operation can do, said once. -/

namespace Sys2Proof.Machine

namespace State

variable {s : State}

theorem whenIdle_busy (h : s.busy = true) (f : State → State) : s.whenIdle f = s := by simp [whenIdle, h]

theorem whenIdle_idle (h : s.busy = false) (f : State → State) : s.whenIdle f = f s := by simp [whenIdle, h]

/-- A legal command whose preconditions hold starts its operation (R106). -/
theorem acceptVariant_accepts {v : Variant} (h : s.accepts v) : s.acceptVariant v = s.start v := by
  cases v <;> simp only [accepts] at h
  case wikipedia =>
    rw [acceptVariant, if_neg (by omega), if_neg (by simp), if_neg (by simp)]
  case rfc3074 =>
    rw [acceptVariant, if_neg (by omega), if_neg (fun h2 => ?_), if_neg (by simp)]
    rcases h.2 with h3 | h3
    · omega
    · exact absurd (h2.2.2.symm.trans h3) (by decide)
  all_goals rw [acceptVariant, if_neg (by omega), if_neg (by simp), if_neg (by omega)]

/-- Everything a legal command can come to: its operation starts under its preconditions, or it fails with the code of
the first precondition that does not hold (R104, R105, R187). -/
theorem acceptVariant_cases (s : State) (v : Variant) :
    (s.accepts v ∧ s.acceptVariant v = s.start v) ∨
    (s.keylen.toNat > s.params.keyCap ∧ s.acceptVariant v = s.raise .keylenOverCap) ∨
    (s.keylen.toNat ≤ s.params.keyCap ∧ v = .rfc3074 ∧ s.keylen.toNat > 255 ∧ s.params.rfcLong = .reject ∧
      s.acceptVariant v = s.raise .keyTooLong) ∨
    (s.keylen.toNat ≤ s.params.keyCap ∧ (v = .original ∨ v = .hash16) ∧ s.keylen.toNat = 0 ∧
      s.acceptVariant v = s.raise .keyEmpty) := by
  by_cases h1 : s.keylen.toNat > s.params.keyCap
  · exact .inr (.inl ⟨h1, by rw [acceptVariant, if_pos h1]⟩)
  by_cases h2 : v = .rfc3074 ∧ s.keylen.toNat > 255 ∧ s.params.rfcLong = .reject
  · exact .inr (.inr (.inl ⟨not_lt.1 h1, h2.1, h2.2.1, h2.2.2, by rw [acceptVariant, if_neg h1, if_pos h2]⟩))
  by_cases h3 : (v = .original ∨ v = .hash16) ∧ s.keylen.toNat = 0
  · exact .inr (.inr (.inr ⟨not_lt.1 h1, h3.1, h3.2, by rw [acceptVariant, if_neg h1, if_neg h2, if_pos h3]⟩))
  refine .inl ⟨?_, by rw [acceptVariant, if_neg h1, if_neg h2, if_neg h3]⟩
  have h1 := not_lt.1 h1
  cases v
  case rfc3074 =>
    refine ⟨h1, ?_⟩
    by_contra hc
    rw [not_or] at hc
    refine h2 ⟨rfl, by omega, ?_⟩
    cases hp : s.params.rfcLong
    · rfl
    · exact absurd hp hc.2
  case wikipedia => exact h1
  case original => exact ⟨h1, Nat.pos_of_ne_zero fun h => h3 ⟨.inl rfl, h⟩⟩
  case hash16 => exact ⟨h1, Nat.pos_of_ne_zero fun h => h3 ⟨.inr rfl, h⟩⟩

/-- Everything `accept` can do (R102): raise ILLEGAL_COMMAND, or run a variant's acceptance on the cleared status. -/
theorem accept_cases (s : State) (c : Byte) :
    (Byte.rsvd c ≠ 0#5 ∧ s.accept c = s.clearStatus.raise .illegalCommand) ∨
    (Byte.rsvd c = 0#5 ∧ s.accept c = s.clearStatus.acceptVariant (Variant.ofBits (Byte.variant c))) := by
  by_cases h : Byte.rsvd c = 0#5
  · exact .inr ⟨h, by simp [accept, h]⟩
  · exact .inl ⟨h, by simp [accept, h]⟩

/-- Everything a host write can do (R101). -/
theorem portWrite_cases (s : State) (a : HostAddr) (v : Byte) :
    s.portWrite a v = s ∨
    (s.busy = false ∧ a = 0x00000#17 ∧ Byte.start v = 1#1 ∧ s.portWrite a v = s.accept v) ∨
    (s.busy = false ∧ a = 0x00002#17 ∧ s.portWrite a v = s.setKeylenHi v) ∨
    (s.busy = false ∧ a = 0x00003#17 ∧ s.portWrite a v = s.setKeylenLo v) ∨
    (s.busy = false ∧ ∃ i, a.toNat = 0x10000 + i ∧ i < s.params.keyCap ∧ s.portWrite a v = s.setKeyByte i v) := by
  cases hb : s.busy
  · simp only [portWrite, whenIdle_idle hb]
    cases ht : targetOf s.params.keyCap a
    case cmd =>
      by_cases hs : Byte.start v = 1#1
      · exact .inr (.inl ⟨trivial, targetOf_eq_cmd ht, hs, by simp [writeTarget, hs]⟩)
      · exact .inl (by simp [writeTarget, hs])
    case keylenHi => exact .inr (.inr (.inl ⟨trivial, targetOf_eq_keylenHi ht, rfl⟩))
    case keylenLo => exact .inr (.inr (.inr (.inl ⟨trivial, targetOf_eq_keylenLo ht, rfl⟩)))
    case key i =>
      obtain ⟨h1, h2⟩ := targetOf_eq_key ht
      exact .inr (.inr (.inr (.inr ⟨trivial, i, h1, h2, rfl⟩)))
    all_goals exact .inl rfl
  · exact .inl (whenIdle_busy hb _)

theorem portWrite_busy (h : s.busy = true) (a : HostAddr) (v : Byte) : s.portWrite a v = s := whenIdle_busy h _

end State

end Sys2Proof.Machine
end

