-- ==== Sys2Proof/Laws/Step.lean ====
section
/-! SUPPORT. What an instruction, an engine turn and a step can do, said once. -/

namespace Sys2Proof.Machine

/-- No instruction stops the machine (60_exceptions.md R180). -/
theorem exec_next (i : Instr) (s : State) : ∃ t, exec i s = .next t := by
  cases i <;> exact ⟨_, rfl⟩

/-- Everything an engine turn that answers a next state can have done (R110, R111, R114). -/
theorem engineTurn_cases {s t : State} (h : engineTurn s = .next t) :
    (s.busy = false ∧ t = s) ∨
    (s.busy = true ∧ s.rem ≠ 0#16 ∧ s.idx.toNat < s.params.keyCap ∧ t = s.fold) ∨
    (s.busy = true ∧ s.rem = 0#16 ∧ s.opl = .hash16 ∧ s.pass = false ∧ t = s.interpass) ∨
    (s.busy = true ∧ s.rem = 0#16 ∧ s.opl = .hash16 ∧ s.pass = true ∧ t = s.complete16) ∨
    (s.busy = true ∧ s.rem = 0#16 ∧ s.opl ≠ .hash16 ∧ t = s.complete8) := by
  cases hb : s.busy
  · rw [engineTurn, hb] at h
    exact .inl ⟨rfl, by injection h with h; exact h.symm⟩
  simp only [engineTurn, hb, if_true, engineStep] at h
  by_cases hr : s.rem = 0#16
  · rw [if_neg (by simpa using hr)] at h
    injection h with h
    subst h
    simp only [State.endOfPass]
    by_cases ho : s.opl = .hash16
    · cases hp : s.pass
      · exact .inr (.inr (.inl ⟨trivial, hr, ho, rfl, by simp [ho]⟩))
      · exact .inr (.inr (.inr (.inl ⟨trivial, hr, ho, rfl, by simp [ho]⟩)))
    · exact .inr (.inr (.inr (.inr ⟨trivial, hr, ho, by simp [ho]⟩)))
  · rw [if_pos hr, foldStep] at h
    by_cases hi : s.idx.toNat < s.params.keyCap
    · rw [if_pos hi] at h
      injection h with h
      exact .inr (.inl ⟨rfl, hr, hi, h.symm⟩)
    · rw [if_neg hi] at h
      cases h

/-- Everything a host transaction can do: drive rdata, or write the port (R81). -/
theorem execTransaction_cases (w : TxnWord) (s : State) :
    (TxnWord.we w = 0#1 ∧ exec (decodeTransaction w) s = .next (s.driveRead (s.portRead (TxnWord.addr w)))) ∨
    (TxnWord.we w = 1#1 ∧
      exec (decodeTransaction w) s = .next (s.portWrite (TxnWord.addr w) (TxnWord.data w))) := by
  by_cases h : TxnWord.we w = 0#1
  · exact .inl ⟨h, by rw [decodeTransaction, if_pos h]; rfl⟩
  · refine .inr ⟨?_, by rw [decodeTransaction, if_neg h]; rfl⟩
    generalize TxnWord.we w = b at h
    revert b
    decide

/-- Everything a step that answers a next state can have done: the turn it took. -/
theorem step_cases {s t : State} (h : step s = .next t) :
    (s.inputs = [] ∧ engineTurn s = .next t) ∨
    (∃ rest, s.inputs = .engine :: rest ∧ engineTurn (s.takeTurn rest) = .next t) ∨
    (∃ p rest, s.inputs = .reset p :: rest ∧ t = (s.takeTurn rest).resetCycle p) ∨
    (∃ w rest, s.inputs = .host w :: rest ∧ exec (decodeTransaction w) (s.beginPort rest) = .next t) := by
  unfold step at h
  split at h
  · exact .inl ⟨‹_›, h⟩
  · exact .inr (.inr (.inr ⟨_, _, ‹_›, h⟩))
  · exact .inr (.inl ⟨_, ‹_›, h⟩)
  · injection h with h
    exact .inr (.inr (.inl ⟨_, _, ‹_›, h.symm⟩))

end Sys2Proof.Machine
end

