-- ==== Sys2Proof/Laws/Engine.lean ====
section
/-! SUPPORT. The engine alone: runs of fold steps (40_fold_and_loop.md R111 to R116), the ends of a pass, and that an
engine turn reads neither `inputs` nor `rdata`. -/

namespace Sys2Proof.Machine

variable {s : State}

/-- Apply a function to the next state. -/
def mapNext (f : State → State) : Host.Outcome State Fault Refusal → Host.Outcome State Fault Refusal
  | .next t => .next (f t)
  | .fault r => .fault r
  | .refused r => .refused r

/-- An engine turn neither reads nor writes `inputs` and `rdata`. -/
theorem engineTurn_inputs_rdata (s : State) (i : List Input) (r : Option Byte) :
    engineTurn { s with inputs := i, rdata := r } =
      mapNext (fun t => { t with inputs := i, rdata := r }) (engineTurn s) := by
  unfold engineTurn engineStep foldStep State.endOfPass
  by_cases h1 : s.busy = true
  · by_cases h2 : s.rem ≠ 0#16
    · by_cases h3 : s.idx.toNat < s.params.keyCap <;> simp [h1, h2, h3, mapNext]; rfl
    · by_cases h3 : s.opl = .hash16
      · cases h4 : s.pass
        · simp [h1, h2, h3, mapNext]; rfl
        · simp [h1, h2, h3, mapNext]; rfl
      · simp [h1, h2, h3, mapNext]; rfl
  · simp [h1, mapNext]

theorem step_of_no_turns (h : s.inputs = []) : step s = engineTurn s := by simp [step, h]

/-- R110: a fold, inside KEYBUF. -/
theorem engineTurn_fold (hb : s.busy = true) (hr : s.rem ≠ 0#16) (hi : s.idx.toNat < s.params.keyCap) :
    engineTurn s = .next s.fold := by
  rw [engineTurn, if_pos hb, engineStep, if_pos hr, foldStep, if_pos hi]

/-- R110: an end of pass. -/
theorem engineTurn_endOfPass (hb : s.busy = true) (hr : s.rem = 0#16) : engineTurn s = .next s.endOfPass := by
  rw [engineTurn, if_pos hb, engineStep, if_neg (by simpa using hr)]

/-- R106: a command whose preconditions hold starts its operation. -/
theorem exec_command_of_accepts {v : Variant} (hb : s.busy = false) (ha : s.accepts v) :
    exec v.command s = .next (s.clearStatus.start v) := by
  have hc : s.clearStatus.accepts v := by revert ha; cases v <;> exact id
  have h : s.runVariant v = s.clearStatus.start v := by
    rw [State.runVariant, State.whenIdle_idle hb, State.acceptVariant_accepts hc]
  cases v <;> exact congrArg _ h

/-- The bytes that `n` folds of a forward pass read from index `i` on. -/
def State.bytesForward (s : State) : Nat → Nat → List Byte
  | _, 0 => []
  | i, n + 1 => s.byteAt (BitVec.ofNat 16 i) :: s.bytesForward (i + 1) n

/-- The bytes that `n` folds of a backward pass read, from index `n - 1` down. -/
def State.bytesBackward (s : State) : Nat → List Byte
  | 0 => []
  | n + 1 => s.byteAt (BitVec.ofNat 16 n) :: s.bytesBackward n

theorem State.bytesForward_congr {t : State} (h : ∀ i, t.byteAt i = s.byteAt i) (i n : Nat) :
    t.bytesForward i n = s.bytesForward i n := by
  induction n generalizing i with
  | zero => rfl
  | succ n ih => simp [bytesForward, h, ih]

theorem State.bytesBackward_congr {t : State} (h : ∀ i, t.byteAt i = s.byteAt i) (n : Nat) :
    t.bytesBackward n = s.bytesBackward n := by
  induction n with
  | zero => rfl
  | succ n ih => simp [bytesBackward, h, ih]

theorem rem_ne_zero {x : Half} {n : Nat} (h : x.toNat = n + 1) : x ≠ 0#16 := by rintro rfl; simp at h

/-- R116: a forward pass of `n` folds, running throughout. -/
theorem run_folds_forward (n : Nat) : ∀ s : State, s.inputs = [] → s.busy = true → s.opl ≠ .rfc3074 →
    s.rem.toNat = n → s.idx.toNat + n ≤ s.params.keyCap → s.idx.toNat + n ≤ 65535 →
    (∀ k ≤ n, ∃ v, runSteps k s = .next v ∧ v.busy = true) ∧
    runSteps n s = .next { s with
      h := pearsonFold s.rom s.h (s.bytesForward s.idx.toNat n)
      idx := BitVec.ofNat 16 (s.idx.toNat + n)
      rem := 0#16 } := by
  induction n with
  | zero =>
    intro s h1 h2 h3 h4 h5 h6
    have hr : s.rem = 0#16 := BitVec.eq_of_toNat_eq h4
    refine ⟨fun k hk => ⟨s, by simp [Nat.le_zero.1 hk], h2⟩, ?_⟩
    rw [runSteps_zero, State.bytesForward, pearsonFold]
    simp [← hr]
  | succ n ih =>
    intro s h1 h2 h3 h4 h5 h6
    have hst : step s = .next s.fold := by
      rw [step_of_no_turns h1, engineTurn_fold h2 (rem_ne_zero h4) (by omega)]
    have hidx : s.fold.idx.toNat = s.idx.toNat + 1 := by
      show (nextIndex _ _).toNat = _
      rw [nextIndex, if_neg h3]
      simp [BitVec.toNat_add]
      omega
    have hrem : s.fold.rem.toNat = n := by
      show (s.rem - 1#16).toNat = _
      have := s.rem.isLt
      simp [BitVec.toNat_sub]
      omega
    obtain ⟨r1, r2⟩ := ih s.fold h1 h2 h3 hrem (by rw [hidx]; show _ ≤ s.params.keyCap; omega) (by rw [hidx]; omega)
    refine ⟨fun k hk => ?_, ?_⟩
    · cases k with
      | zero => exact ⟨s, rfl, h2⟩
      | succ k => rw [runSteps_succ hst]; exact r1 k (by omega)
    · rw [runSteps_succ hst, r2, State.bytesForward_congr (s := s) (t := s.fold) (fun _ => rfl), hidx]
      have hw : BitVec.ofNat 16 s.idx.toNat = s.idx := by simp
      simp only [State.bytesForward, pearsonFold, hw]
      rw [show s.idx.toNat + 1 + n = s.idx.toNat + (n + 1) by omega]
      rfl

/-- R116: a backward pass of `n` folds, running throughout. -/
theorem run_folds_backward (n : Nat) : ∀ s : State, s.inputs = [] → s.busy = true → s.opl = .rfc3074 →
    s.rem.toNat = n → s.idx = BitVec.ofNat 16 n - 1#16 → n ≤ s.params.keyCap →
    (∀ k ≤ n, ∃ v, runSteps k s = .next v ∧ v.busy = true) ∧
    runSteps n s = .next { s with
      h := pearsonFold s.rom s.h (s.bytesBackward n), idx := 0xFFFF#16, rem := 0#16 } := by
  induction n with
  | zero =>
    intro s h1 h2 h3 h4 h5 h6
    have hr : s.rem = 0#16 := BitVec.eq_of_toNat_eq h4
    refine ⟨fun k hk => ⟨s, by simp [Nat.le_zero.1 hk], h2⟩, ?_⟩
    rw [runSteps_zero, State.bytesBackward, pearsonFold]
    have h5 : s.idx = 65535#16 := h5
    simp [← hr, ← h5]
  | succ n ih =>
    intro s h1 h2 h3 h4 h5 h6
    have hl := s.rem.isLt
    have hi : s.idx = BitVec.ofNat 16 n := by
      rw [h5]
      refine BitVec.eq_of_toNat_eq ?_
      simp [BitVec.toNat_sub]
      omega
    have hn : s.idx.toNat = n := by rw [hi]; simp; omega
    have hst : step s = .next s.fold := by
      rw [step_of_no_turns h1, engineTurn_fold h2 (rem_ne_zero h4) (by omega)]
    have hidx : s.fold.idx = BitVec.ofNat 16 n - 1#16 := by
      show nextIndex _ _ = _
      rw [nextIndex, if_pos h3, hi]
    have hrem : s.fold.rem.toNat = n := by
      show (s.rem - 1#16).toNat = _
      simp [BitVec.toNat_sub]
      omega
    obtain ⟨r1, r2⟩ := ih s.fold h1 h2 h3 hrem hidx (by show _ ≤ s.params.keyCap; omega)
    refine ⟨fun k hk => ?_, ?_⟩
    · cases k with
      | zero => exact ⟨s, rfl, h2⟩
      | succ k => rw [runSteps_succ hst]; exact r1 k (by omega)
    · rw [runSteps_succ hst, r2, State.bytesBackward_congr (s := s) (t := s.fold) (fun _ => rfl)]
      simp only [State.bytesBackward, pearsonFold, ← hi]
      rfl

/-- R112: what a forward pass reads is KEYBUF, but for index 0 of HASH16's second pass. -/
theorem State.bytesForward_eq (s : State) (i n : Nat) (hp : ¬(s.opl = .hash16 ∧ s.pass = true) ∨ 0 < i)
    (h : i + n ≤ 65536) : s.bytesForward i n = (List.range' i n).map s.keyByte := by
  induction n generalizing i with
  | zero => rfl
  | succ n ih =>
    simp only [bytesForward, List.range'_succ, List.map_cons, ih (i + 1) (.inr (by omega)) (by omega)]
    have hi : (BitVec.ofNat 16 i).toNat = i := by simp; omega
    congr 1
    rw [byteAt, if_neg (fun hc => ?_), hi]
    rcases hp with hp | hp
    · exact hp ⟨hc.1, hc.2.1⟩
    · rw [hc.2.2] at hi
      simp at hi
      omega

/-- R112: what RFC3074's backward pass reads is the key in reverse order. -/
theorem State.bytesBackward_eq (s : State) (ho : s.opl = .rfc3074) (n : Nat) (h : n ≤ 65536) :
    s.bytesBackward n = ((List.range n).map s.keyByte).reverse := by
  induction n with
  | zero => rfl
  | succ n ih =>
    rw [bytesBackward, ih (by omega), List.range_succ, List.map_append, List.reverse_append]
    have hn : (BitVec.ofNat 16 n).toNat = n := by simp; omega
    rw [byteAt, if_neg (fun hc => Variant.noConfusion (ho.symm.trans hc.1)), hn]
    rfl

end Sys2Proof.Machine
end

