-- ==== Sys2Proof/Laws/PerInstr.lean ====
section
/-! SUPPORT. Per instruction: a well-formed instruction's encoding lies in the row of the opcode table that its
constructor stands for (spec/opcode_table.json). -/

namespace Sys2Proof.Laws.EncodesInRow

/-- The encoding of a well-formed instruction matches its row's match under its row's mask. -/
def Statement (i : Instr) : Prop := i.wf = true → (encode i).inRow i.row = true

theorem we_of_mask (we : BitVec 1) (a : HostAddr) (d : Byte) :
    TxnWord.make we a d &&& 0x2000000#26 = we.setWidth 26 <<< 25 := by
  refine BitVec.eq_of_getLsbD_eq fun i hi => ?_
  have hm : (0x2000000#26).getLsbD i = decide (i = 25) := by
    revert i; decide
  rw [BitVec.getLsbD_and, hm, TxnWord.getLsbD_make, BitVec.getLsbD_shiftLeft, BitVec.getLsbD_setWidth]
  by_cases h : i = 25
  · subst h; simp
  · simp [h]; omega

theorem r8 (a : HostAddr) (d : Byte) : Statement (.r8 a d) := fun _ => by
  show (!false && TxnWord.make 0#1 a d &&& 0x2000000#26 == 0x0000000#26) = true
  rw [we_of_mask]; decide

theorem w8 (a : HostAddr) (d : Byte) : Statement (.w8 a d) := fun _ => by
  show (!false && TxnWord.make 1#1 a d &&& 0x2000000#26 == 0x2000000#26) = true
  rw [we_of_mask]; decide

theorem phRfc3074 : Statement .phRfc3074 := fun _ => by decide
theorem phOrig : Statement .phOrig := fun _ => by decide
theorem phWiki : Statement .phWiki := fun _ => by decide
theorem phH16 : Statement .phH16 := fun _ => by decide
theorem phNop : ∀ r v, Statement (.phNop r v) := by unfold Statement; decide
theorem illegalC0 : ∀ r v, Statement (.illegalC0 r v) := by unfold Statement; decide
theorem illegalA0 : ∀ r v, Statement (.illegalA0 r v) := by unfold Statement; decide
theorem illegal90 : ∀ r v, Statement (.illegal90 r v) := by unfold Statement; decide
theorem illegal88 : ∀ r v, Statement (.illegal88 r v) := by unfold Statement; decide
theorem illegal84 : ∀ r v, Statement (.illegal84 r v) := by unfold Statement; decide

end Sys2Proof.Laws.EncodesInRow
end

