-- ==== Sys2Proof/Tests/Slice0.lean ====
section
/-! SUPPORT. The model's own tests (expected results from spec/95_test_vectors.md and the encoding tables of
spec/30_encoding.md), and for every statement with hypotheses a witness that meets them. -/

namespace Sys2Proof.Tests

set_option Elab.async false

open Sys2Proof Sys2Proof.Machine

/-! ### Ill-formed terms -/

theorem test_wf_illegalC0_refused : Instr.wf (.illegalC0 0b01111#5 0b11#2) = false := by decide
theorem test_wf_illegalA0_refused : Instr.wf (.illegalA0 0b11000#5 0b00#2) = false := by decide
theorem test_wf_illegal90_refused : Instr.wf (.illegal90 0b01100#5 0b01#2) = false := by decide
theorem test_wf_illegal88_refused : Instr.wf (.illegal88 0b00100#5 0b10#2) = false := by decide
theorem test_wf_illegal84_refused : Instr.wf (.illegal84 0b00000#5 0b00#2) = false := by decide

/-- R8: 256 ≤ KEY_CAP ≤ 65535. -/
theorem test_params_wf_bounds :
    ¬ Params.wf { Config.testParams with keyCap := 255 } ∧ ¬ Params.wf { Config.testParams with keyCap := 65536 } ∧
    Params.wf { Config.testParams with keyCap := 256 } ∧ Params.wf { Config.testParams with keyCap := 65535 } := by
  decide

/-- R8: the default of RFC_LONG_POLICY is REJECT. -/
theorem test_default_policy_rejects : State.reset.params.rfcLong = .reject := rfl

/-- R31: a table with a repeated value is no permutation. -/
theorem test_table_wf_refuses_constant : ¬ PermTable.wf (Vector.replicate 256 0x00#8) := by
  rw [PermTable.wf, Vector.toList_replicate, List.nodup_replicate]
  decide

/-- R91: LDKEY of more than KEY_CAP bytes is refused. -/
theorem test_ldkey_too_long_refused : (Pseudo.ldkey [0x61#8, 0x62#8]).wf 1 = false := by decide

/-- The canonical form refuses a repeated index. -/
theorem test_memory_wf_refuses_repeat : ¬ Memory.wf [(3, 0x00#8), (3, 0x01#8)] := by decide

/-! ### Decoding: words written out from R80, R83 and 95_test_vectors.md section 2 -/

/-- `R8 TABLE+0xFF` -/
theorem test_decode_r8 : decodeTableWord 32 0x001FF00 = some (.r8 0x001FF#17 0x00#8) := by decide
/-- `W8 KEYBUF+2, 0x63` -/
theorem test_decode_w8 : decodeTableWord 32 0x3000263 = some (.w8 0x10002#17 0x63#8) := by decide
theorem test_decode_rfc3074 : decodeTableWord 8 0b10000000 = some .phRfc3074 := by decide
theorem test_decode_orig : decodeTableWord 8 0b10000001 = some .phOrig := by decide
theorem test_decode_wiki : decodeTableWord 8 0b10000010 = some .phWiki := by decide
theorem test_decode_h16 : decodeTableWord 8 0b10000011 = some .phH16 := by decide
theorem test_decode_nop : decodeTableWord 8 0b00000011 = some (.phNop 0b00000#5 0b11#2) := by decide
theorem test_decode_illegalC0 : decodeTableWord 8 0b11000001 = some (.illegalC0 0b10000#5 0b01#2) := by decide
theorem test_decode_illegalA0 : decodeTableWord 8 0b10110110 = some (.illegalA0 0b01101#5 0b10#2) := by decide
theorem test_decode_illegal90 : decodeTableWord 8 0b10011111 = some (.illegal90 0b00111#5 0b11#2) := by decide
theorem test_decode_illegal88 : decodeTableWord 8 0b10001000 = some (.illegal88 0b00010#5 0b00#2) := by decide
theorem test_decode_illegal84 : decodeTableWord 8 0b10000111 = some (.illegal84 0b00001#5 0b11#2) := by decide

/-- Numbers that are no encoding, each by its name. -/
theorem test_decode_rejects :
    decodeBits 7 0 = .error .tooShort ∧ decodeBits 8 0x100 = .error .bitsAboveCommandByte ∧
    decodeBits 32 0x4000000 = .error .bitsAboveTransactionWord := by decide

/-- The words of `W8 KEYLEN_HI, 0x01`, `R8 STATUS`, `R8 KEYBUF+1024` and `PH.H16`. -/
theorem test_encode_words :
    writeWord .keylenHi 0x01#8 = 0x2000201#26 ∧ readWord .status = 0x0000100#26 ∧
    readWord (.keybuf 1024#16) = 0x1040000#26 ∧ encodeTransaction .phH16 = 0x2000083#26 := by decide

/-- R91: the words of P1's `LDKEY "ab"`. -/
theorem test_ldkey_expansion :
    (Pseudo.ldkey [0x61#8, 0x62#8]).expand = [0x2000200#26, 0x2000302#26, 0x3000061#26, 0x3000162#26] := by decide

/-! ### The test instance (R9) -/

/-- The candidate table of 93_implementation_defined.md G1, which the vectors use (log 8). -/
def candidateRows : List Nat :=
  [251, 175, 119, 215, 81, 14, 79, 191, 103, 49, 181, 143, 186, 157, 0, 232] ++
  [31, 32, 55, 60, 152, 58, 17, 237, 174, 70, 160, 144, 220, 90, 57, 223] ++
  [59, 3, 18, 140, 111, 166, 203, 196, 134, 243, 124, 95, 222, 179, 197, 65] ++
  [180, 48, 36, 15, 107, 46, 233, 130, 165, 30, 123, 161, 209, 23, 97, 16] ++
  [40, 91, 219, 61, 100, 10, 210, 109, 250, 127, 22, 138, 29, 108, 244, 67] ++
  [207, 9, 178, 204, 74, 98, 126, 249, 167, 116, 34, 77, 193, 200, 121, 5] ++
  [20, 113, 71, 35, 128, 13, 182, 94, 25, 226, 227, 199, 75, 27, 41, 245] ++
  [230, 224, 43, 225, 177, 26, 155, 150, 212, 142, 218, 115, 241, 73, 88, 105] ++
  [39, 114, 62, 255, 192, 201, 145, 214, 168, 158, 221, 148, 154, 122, 12, 84] ++
  [82, 163, 44, 139, 228, 236, 205, 242, 217, 11, 187, 146, 159, 64, 86, 239] ++
  [195, 42, 106, 198, 118, 112, 184, 172, 87, 2, 173, 117, 176, 229, 247, 253] ++
  [137, 185, 99, 164, 102, 147, 45, 66, 231, 52, 141, 211, 194, 206, 246, 238] ++
  [56, 110, 78, 248, 63, 240, 189, 93, 92, 51, 53, 183, 19, 171, 72, 50] ++
  [33, 104, 101, 69, 8, 252, 83, 120, 76, 135, 85, 54, 202, 125, 188, 213] ++
  [96, 235, 136, 208, 162, 129, 190, 132, 156, 38, 47, 1, 7, 254, 24, 4] ++
  [216, 131, 89, 21, 28, 133, 37, 153, 149, 80, 170, 68, 6, 169, 234, 151]

def candidateTable : PermTable := Vector.ofFn fun i => BitVec.ofNat 8 (candidateRows.getD i.val 0)

/-- E10 for the candidate: each of 0 to 255 once. -/
theorem test_candidate_is_permutation : candidateRows.length = 256 ∧ candidateRows.Nodup ∧
    ∀ v ∈ candidateRows, v < 256 := by decide +kernel

/-- The test instance after reset. -/
def idle : State := State.afterReset candidateTable Config.testParams 0 []

/-- The test instance with a KEYLEN and nothing else done. -/
def idleLen (keylen : Half) : State := { idle with keylen := keylen }

/-- P1's key "ab" and P2's "abc", loaded. -/
def idleAb : State := { idleLen 2#16 with keybuf := [(0, 0x61#8), (1, 0x62#8)] }
def idleAbc : State := { idleLen 3#16 with keybuf := [(0, 0x61#8), (1, 0x62#8), (2, 0x63#8)] }

/-- A field of the next state. -/
def got {α : Type} (f : State → α) : Host.Outcome State Fault Refusal → Option α
  | .next s => some (f s)
  | .fault _ => none
  | .refused _ => none

/-- What the rows of the acceptance table of 95_test_vectors.md section 3 list. -/
def accepted (s : State) : Byte × Byte × Half × Half := (s.statusByte, s.h, s.idx, s.rem)

/-! ### One step each -/

/-- After reset every register reads 0x00. -/
theorem test_r8_status_after_reset : got State.rdata (step (State.reset.withFetchWord 32 0x0000100)) =
    some (some 0x00#8) := by decide +kernel
/-- P4: `R8 TABLE+0x61` returns 0x71; a read at 0x10400 returns 0x00. -/
theorem test_r8_table_and_reserved : got State.rdata (step (idle.withFetchWord 32 0x0016100)) = some (some 0x71#8) ∧
    got State.rdata (step (idle.withFetchWord 32 0x1040000)) = some (some 0x00#8) := by decide +kernel
/-- P4: writing KEYLEN_LO keeps KEYLEN_HI. -/
theorem test_w8_keylen_lo_keeps_hi :
    got State.keylen (step ((idleLen 0x0100#16).withFetchWord 32 0x2000301)) = some 0x0101#16 := by decide +kernel
/-- `W8 KEYBUF+5, 0x7E`, then KEYBUF[5] is 0x7E. -/
theorem test_w8_key_byte :
    got (fun s => s.keyByte 5) (step (idle.withFetchWord 32 0x300057E)) = some 0x7E#8 := by decide +kernel
theorem test_rfc3074_accepts_three :
    got accepted (step ((idleLen 0x0003#16).withFetchWord 8 0x80)) = some (0x01#8, 0x03#8, 0x0002#16, 3#16) := by decide +kernel
theorem test_rfc3074_rejects_256 :
    got accepted (step ((idleLen 0x0100#16).withFetchWord 8 0x80)) = some (0x26#8, 0x00#8, 0#16, 0#16) := by decide +kernel
theorem test_orig_accepts_three :
    got accepted (step ((idleLen 0x0003#16).withFetchWord 8 0x81)) = some (0x01#8, 0x00#8, 0#16, 3#16) := by decide +kernel
theorem test_orig_rejects_empty :
    got accepted (step (idle.withFetchWord 8 0x81)) = some (0x16#8, 0x00#8, 0#16, 0#16) := by decide +kernel
theorem test_wiki_accepts_key_cap :
    got accepted (step ((idleLen 0x0400#16).withFetchWord 8 0x82)) = some (0x01#8, 0x00#8, 0#16, 1024#16) := by decide +kernel
theorem test_wiki_rejects_over_cap :
    got State.statusByte (step ((idleLen 0x0401#16).withFetchWord 8 0x82)) = some 0x36#8 := by decide +kernel
theorem test_h16_rejects_empty : got State.statusByte (step (idle.withFetchWord 8 0x83)) = some 0x16#8 := by decide +kernel
theorem test_h16_rejects_over_cap :
    got State.statusByte (step ((idleLen 0xFFFF#16).withFetchWord 8 0x83)) = some 0x36#8 := by decide +kernel
/-- P4: PH.NOP keeps STATUS 0x26. -/
theorem test_nop_keeps_status :
    got State.statusByte (step ((idle.raise .keyTooLong).withFetchWord 8 0x00)) = some 0x26#8 := by decide +kernel
/-- R187: code 4 comes before code 3 and code 1, in each of the five rows. -/
theorem test_illegal_before_keylen :
    ∀ c ∈ [0x84, 0x88, 0x90, 0xA0, 0xC0, 0xFF],
      got State.statusByte (step ((idleLen 0x0401#16).withFetchWord 8 c)) = some 0x46#8 ∧
      got State.statusByte (step (idle.withFetchWord 8 c)) = some 0x46#8 := by decide +kernel
/-- P3: a command while BUSY = 1 is ignored. -/
theorem test_command_while_busy_ignored :
    got State.opl (step (((idleLen 1#16).start .wikipedia).withFetchWord 8 0x83)) = some .wikipedia := by decide +kernel

/-! ### Engine steps -/

/-- Section 3, RFC3074 on "abc", fold 1. -/
theorem test_fold_backward :
    got accepted (step (idleAbc.start .rfc3074)) = some (0x01#8, 0x14#8, 0x0001#16, 2#16) := by decide +kernel
/-- Section 3, RFC3074 on "abc", fold 3: IDX wraps. -/
theorem test_fold_index_wraps :
    got accepted (step { idleAbc.start .rfc3074 with h := 0x9B#8, idx := 0#16, rem := 1#16 }) =
      some (0x01#8, 0xAA#8, 0xFFFF#16, 0#16) := by decide +kernel
/-- Section 6, HASH16 on "ab": the inter-pass step, then the fold of the substituted first byte. -/
theorem test_interpass :
    got (fun s => (s.h1, accepted s, s.pass)) (step { idleAb.start .hash16 with h := 0x3C#8, idx := 2#16, rem := 0#16 }) =
      some (0x3C#8, (0x01#8, 0x00#8, 0#16, 2#16), true) := by decide +kernel
theorem test_fold_of_substituted_byte :
    got accepted (step { idleAb.start .hash16 with pass := true }) = some (0x01#8, 0x47#8, 1#16, 1#16) := by decide +kernel
/-- Section 6, HASH16 on "ab": complete16. -/
theorem test_complete16 :
    got (fun s => (s.statusByte, s.digest)) (step { idleAb.start .hash16 with
      h1 := 0x3C#8, h := 0xA6#8, idx := 2#16, rem := 0#16, pass := true }) = some (0x02#8, 0x3CA6#16) := by decide +kernel
/-- Section 3, WIKIPEDIA on "abc": complete8. -/
theorem test_complete8 :
    got (fun s => (s.statusByte, s.digest)) (step { idleAbc.start .wikipedia with h := 0x05#8, idx := 3#16, rem := 0#16 }) =
      some (0x02#8, 0x0005#16) := by decide +kernel
/-- Section 6, signedness check. -/
theorem test_perturb_unsigned : perturb 0xFE#8 = 0x00#8 ∧ perturb 0xFF#8 = 0x01#8 := by decide +kernel
/-- Sections 4 to 6: the digests of "abc". -/
theorem test_digests_of_abc :
    idleAbc.digestOf .rfc3074 = 0x00AA#16 ∧ idleAbc.digestOf .original = 0x0005#16 ∧
    idleAbc.digestOf .wikipedia = 0x0005#16 ∧ idleAbc.digestOf .hash16 = 0x05F0#16 := by decide +kernel
/-- Section 7: a reset while HASH16 runs; a read presented in its cycle returns 0x00, the ROM stays. -/
theorem test_reset_aborts :
    got (fun s => (s.statusByte, s.keylen, s.h, s.rdata, s.romByte 0x61#8))
      (step { idleAbc.start .hash16 with h := 0x05#8, inputs := [.reset (some 0x0016100#26)] }) =
      some (0x00#8, 0#16, 0x00#8, some 0x00#8, 0x71#8) := by decide +kernel
/-- Section 8, P3: the STATUS read in the cycle after PH.WIKI on "a" returns 0x01 in clocked hardware. -/
theorem test_tick_reads_status_before_engine_step :
    got (fun s => (s.rdata, s.statusByte)) (tick false (some 0x0000100#26)
      { (idleLen 1#16).start .wikipedia with h := 0x71#8, idx := 1#16, rem := 0#16 }) =
      some (some 0x01#8, 0x02#8) := by decide +kernel

/-! ### Witnesses: states and operands that meet a statement's hypotheses, at the ends of their ranges -/

theorem next_of_got {α : Type} {f : State → α} {o : Host.Outcome State Fault Refusal} {x : α}
    (h : got f o = some x) : ∃ t : State, o = .next t ∧ f t = x := by
  cases o with
  | next t => exact ⟨t, rfl, Option.some.inj h⟩
  | fault r => exact nomatch h
  | refused r => exact nomatch h

/-- An idle state that meets the invariants, with a key of one byte. -/
def plain : State :=
  { State.afterReset Config.identityTable Config.testParams 0 [] with keylen := 1#16, keybuf := [(0, 0xFE#8)] }

/-- The same under TRUNCATE. -/
def plainTruncate : State := { plain with params := { Config.testParams with rfcLong := .truncate } }

theorem witness_inv : plain.Inv where
  params_wf := by decide +kernel
  rom_perm := Config.identityTable_wf
  keybuf_wf := by decide +kernel
  keybuf_below := by decide +kernel
  idle_pass := by decide +kernel
  pass_hash16 := by decide +kernel
  busy_status := by decide +kernel
  busy_keylen := by decide +kernel
  busy_rfc3074 := by decide +kernel
  busy_nonempty := by decide +kernel
  walk_backward := by decide +kernel
  walk_forward := by decide +kernel
  walk_inside := by decide +kernel
  err_code := by decide +kernel
  err_done := by decide +kernel
  errcode_le := by decide +kernel

/-- InvariantStatesRunForever, StepKeepsInvariants: also a running state, in HASH16's second pass. -/
theorem witness_inv_running : State.Inv { plain with busy := true, opl := .hash16, pass := true, rem := 1#16 } where
  params_wf := by decide +kernel
  rom_perm := Config.identityTable_wf
  keybuf_wf := by decide +kernel
  keybuf_below := by decide +kernel
  idle_pass := by decide +kernel
  pass_hash16 := by decide +kernel
  busy_status := by decide +kernel
  busy_keylen := by decide +kernel
  busy_rfc3074 := by decide +kernel
  busy_nonempty := by decide +kernel
  walk_backward := by decide +kernel
  walk_forward := by decide +kernel
  walk_inside := by decide +kernel
  err_code := by decide +kernel
  err_done := by decide +kernel
  errcode_le := by decide +kernel

theorem witness_StepKeepsInvariants :
    ∃ t : State, step { plain with busy := true, opl := .hash16, pass := true, rem := 1#16 } = .next t ∧ t.rem = 0#16 :=
  next_of_got (by decide +kernel)

/-- CommandByteOpcodeMap, at both ends of each range. -/
theorem witness_CommandByteOpcodeMap :
    decodeCommand 0x00#8 = .phNop 0b00000#5 0b00#2 ∧ decodeCommand 0x7F#8 = .phNop 0b11111#5 0b11#2 ∧
    decodeCommand 0x84#8 = .illegal84 0b00001#5 0b00#2 ∧ decodeCommand 0x87#8 = .illegal84 0b00001#5 0b11#2 ∧
    decodeCommand 0x88#8 = .illegal88 0b00010#5 0b00#2 ∧ decodeCommand 0x8F#8 = .illegal88 0b00011#5 0b11#2 ∧
    decodeCommand 0x90#8 = .illegal90 0b00100#5 0b00#2 ∧ decodeCommand 0x9F#8 = .illegal90 0b00111#5 0b11#2 ∧
    decodeCommand 0xA0#8 = .illegalA0 0b01000#5 0b00#2 ∧ decodeCommand 0xBF#8 = .illegalA0 0b01111#5 0b11#2 ∧
    decodeCommand 0xC0#8 = .illegalC0 0b10000#5 0b00#2 ∧ decodeCommand 0xFF#8 = .illegalC0 0b11111#5 0b11#2 := by decide +kernel

theorem witness_TransactionWordDecoding :
    decodeTransaction 0x1FFFFFF#26 = .r8 0x1FFFF#17 0xFF#8 ∧ decodeTransaction 0x2000000#26 = .w8 0#17 0#8 := by decide +kernel

theorem witness_DecodeEncodeRoundTrip :
    Instr.wf (.r8 0x1FFFF#17 0xFF#8) = true ∧ Instr.wf (.w8 0#17 0#8) = true ∧ Instr.wf .phRfc3074 = true ∧
    Instr.wf .phOrig = true ∧ Instr.wf .phWiki = true ∧ Instr.wf .phH16 = true ∧ Instr.wf (.phNop 0b11111#5 0#2) = true ∧
    Instr.wf (.illegalC0 0b10000#5 0#2) = true ∧ Instr.wf (.illegalA0 0b01111#5 0#2) = true ∧
    Instr.wf (.illegal90 0b00100#5 0#2) = true ∧ Instr.wf (.illegal88 0b00011#5 0#2) = true ∧
    Instr.wf (.illegal84 0b00001#5 0#2) = true := by decide +kernel

/-- StepRunsHostTransaction, StepRunsEncodedInstruction: R8 STATUS and PH.H16 at the head of the turns. -/
theorem witness_StepRunsEncodedInstruction :
    ({ idle with inputs := [.host 0x2000083#26] } : State).inputs = .host (encodeTransaction .phH16) :: [] ∧
    encodeTransaction (.r8 0x00001#17 0x00#8) = 0x0000100#26 ∧ Instr.wf .phH16 = true := by decide +kernel

theorem witness_FetchedWordRuns : decodeTableWord 8 0xFF = some (.illegalC0 0b11111#5 0b11#2) ∧
    decodeTableWord 32 0x20001FF = some (.w8 0x00001#17 0xFF#8) := by decide +kernel

/-- EngineStepsWhileBusy: idle, a fold and an end of pass, with no turn listed and at an engine turn. -/
theorem witness_EngineStepsWhileBusy :
    idle.inputs = [] ∧ idle.busy = false ∧ (idleAb.start .wikipedia).busy = true ∧
    (idleAb.start .wikipedia).rem ≠ 0#16 ∧ (idle.start .wikipedia).busy = true ∧ (idle.start .wikipedia).rem = 0#16 ∧
    ({ idle with inputs := [.engine] } : State).inputs = .engine :: [] := by decide +kernel

/-- ResetCycleEffect, ResetRedrawsKeyBuffer: with a read, a write and nothing presented. -/
theorem witness_ResetCycleEffect :
    ({ idle with inputs := [.reset none] } : State).inputs = .reset none :: [] ∧
    some 0x0000100#26 = some (TxnWord.make 0#1 0x00001#17 0x00#8) ∧
    some 0x2000203#26 = some (TxnWord.make 1#1 0x00002#17 0x03#8) ∧
    got State.keyEpoch (step { idle with inputs := [.reset none] }) = some 1 := by decide +kernel

/-- HostReadReturnsMappedByte: each range of the map at both ends, with what each end returns. -/
theorem witness_HostReadReturnsMappedByte_rom :
    (0x00100#17).toNat = 0x00100 + (0 : Fin 256).val ∧ idle.portRead 0x00100#17 = 0xFB#8 ∧
    (0x001FF#17).toNat = 0x00100 + (255 : Fin 256).val ∧ idle.portRead 0x001FF#17 = 0x97#8 := by decide +kernel
theorem witness_HostReadReturnsMappedByte_key :
    0 < idle.params.keyCap ∧ (0x10000#17).toNat = 0x10000 + 0 ∧ idleAb.portRead 0x10000#17 = 0x61#8 ∧
    1023 < idle.params.keyCap ∧ (0x103FF#17).toNat = 0x10000 + 1023 ∧
    (idle.setKeyByte 1023 0x5A#8).portRead 0x103FF#17 = 0x5A#8 := by decide +kernel
theorem witness_HostReadReturnsMappedByte_reserved :
    ∀ n ∈ [0x00006, 0x000FF, 0x00200, 0x0FFFF, 0x10400, 0x1FFFF],
      (0x00006 ≤ (BitVec.ofNat 17 n).toNat ∧ (BitVec.ofNat 17 n).toNat ≤ 0x000FF ∨
        0x00200 ≤ (BitVec.ofNat 17 n).toNat ∧ (BitVec.ofNat 17 n).toNat ≤ 0x0FFFF ∨
        0x10000 + idle.params.keyCap ≤ (BitVec.ofNat 17 n).toNat) ∧ idle.portRead (BitVec.ofNat 17 n) = 0x00#8 := by decide +kernel
theorem witness_HostReadReturnsMappedByte_registers :
    let s : State := { idleLen 0x0102#16 with digest := 0x3CA6#16, done := true }
    s.portRead 0#17 = 0x00#8 ∧ s.portRead 1#17 = 0x02#8 ∧ s.portRead 2#17 = 0x01#8 ∧ s.portRead 3#17 = 0x02#8 ∧
    s.portRead 4#17 = 0x3C#8 ∧ s.portRead 5#17 = 0xA6#8 := by decide +kernel

/-- KeyWindowReadsAndWrites, WritesIgnoredWhileBusy: an idle and a running state, first and last key byte. -/
theorem witness_KeyWindowReadsAndWrites :
    0 < idle.params.keyCap ∧ 1023 < idle.params.keyCap ∧ (0x103FF#17).toNat = 0x10000 + 1023 ∧ idle.busy = false ∧
    (idleAb.start .hash16).busy = true ∧ (∀ a d, Instr.phH16 ≠ .r8 a d) := by
  refine ⟨by decide +kernel, by decide +kernel, by decide +kernel, by decide +kernel, by decide +kernel, fun _ _ h => by cases h⟩

/-- KeylenBytes, ErrorCompletion, StatusRegister: idle; NopChangesNothing: the last no-op byte. -/
theorem witness_KeylenBytes : idle.busy = false ∧ (0x7F#8).toNat ≤ 0x7F := by decide +kernel

theorem witness_ReservedAndReadOnlyAddresses :
    (0x00001#17).toNat = 1 ∧ (0x00004#17).toNat = 4 ∧ (0x00005#17).toNat = 5 ∧ (0x00000#17).toNat = 0 := by decide +kernel

theorem witness_RomWindowHoldsPermutation : plain.Inv ∧ 0x00100 ≤ (0x00100#17).toNat ∧
    (0x001FF#17).toNat ≤ 0x001FF ∧ (0x00100#17 : HostAddr) ≠ 0x001FF#17 := ⟨witness_inv, by decide +kernel⟩

/-- HostWriteFrame: a write to a key byte, one elsewhere, and one while busy. -/
theorem witness_HostWriteFrame :
    (∃ t : State, exec (.w8 0x10005#17 0x7E#8) idle = .next t ∧ t.keyByte 5 = 0x7E#8) ∧
    targetOf idle.params.keyCap 0x10005#17 = .key 5 ∧
    (∃ t : State, exec (.w8 0x00002#17 0x01#8) idle = .next t ∧ t.keylen = 0x0100#16) ∧
    (∀ i : Nat, targetOf idle.params.keyCap 0x00002#17 ≠ .key i) ∧
    (∃ t : State, exec (.w8 0x10000#17 0x00#8) (idleAb.start .hash16) = .next t ∧ t.keyByte 0 = 0x61#8) :=
  ⟨next_of_got (by decide +kernel), by decide +kernel, next_of_got (by decide +kernel), fun _ h => by exact absurd h (by simp [targetOf]), next_of_got (by decide +kernel)⟩

theorem witness_ReadAndCommandFrame :
    (∃ t : State, exec (.r8 0x00001#17 0x00#8) idle = .next t ∧ t.rdata = some 0x00#8) ∧
    (∃ t : State, exec .phWiki idle = .next t ∧ t.busy = true) ∧ (∀ a v, Instr.phWiki ≠ .w8 a v) ∧
    (∀ a v, Instr.r8 0x00001#17 0x00#8 ≠ .w8 a v) := by
  refine ⟨next_of_got (by decide +kernel), next_of_got (by decide +kernel), ?_, ?_⟩ <;> intro _ _ h <;> cases h

/-- CommandsStartOperations, VariantPreconditions, Rfc3074Digest, WikipediaDigest, OriginalAgreesWithWikipedia,
Rfc3074LengthBoundary: the lengths at which a condition turns, under both policies. -/
theorem witness_lengths :
    (∀ k ∈ [0, 1, 255, 256, 1024], (idleLen (BitVec.ofNat 16 k)).inputs = [] ∧
      (idleLen (BitVec.ofNat 16 k)).busy = false ∧
      (idleLen (BitVec.ofNat 16 k)).keylen.toNat ≤ (idleLen (BitVec.ofNat 16 k)).params.keyCap) ∧
    (idleLen 255#16).keylen.toNat ≤ 255 ∧ 1 ≤ (idleLen 1#16).keylen.toNat ∧ (idleLen 0#16).keylen.toNat = 0 ∧
    (idleLen 256#16).keylen.toNat > 255 ∧ idle.params.rfcLong = .reject ∧ idle.params.wf ∧
    plainTruncate.params.rfcLong = .truncate ∧ plainTruncate.inputs = [] ∧ plainTruncate.busy = false := by decide +kernel
theorem witness_lengths_truncate :
    let s : State := { plainTruncate with keylen := 256#16 }
    s.busy = false ∧ s.inputs = [] ∧ s.keylen.toNat ≤ s.params.keyCap ∧ s.keylen.toNat > 255 ∧
    s.params.rfcLong = .truncate := by decide +kernel

theorem witness_KeylenOverCapFails : (idleLen 1025#16).busy = false ∧
    (idleLen 1025#16).keylen.toNat > (idleLen 1025#16).params.keyCap := by decide +kernel

/-- AcceptanceProcedure, AcceptanceOutcomes, StatusReadAfterCommand, IllegalCommandReportsCodeFour: bytes that reach
each branch, with STATUS after. -/
theorem witness_AcceptanceProcedure :
    (∀ c ∈ [0x80#8, 0x81#8, 0x82#8, 0x83#8, 0x84#8, 0xFF#8], c.getLsbD 7 = true) ∧ idle.busy = false ∧
    got State.statusByte (exec (.w8 0#17 0x84#8) (idleLen 1025#16)) = some 0x46#8 ∧
    got State.statusByte (exec (.w8 0#17 0x80#8) (idleLen 1025#16)) = some 0x36#8 ∧
    got State.statusByte (exec (.w8 0#17 0x80#8) (idleLen 256#16)) = some 0x26#8 ∧
    got State.statusByte (exec (.w8 0#17 0x83#8) (idleLen 0#16)) = some 0x16#8 ∧
    got State.statusByte (exec (.w8 0#17 0x80#8) (idleLen 255#16)) = some 0x01#8 := by decide +kernel

/-- WhichCommandRaisesWhichCode: reads and writes elsewhere than CMD; PH.ORIG can raise code 1. -/
theorem witness_WhichCommandRaisesWhichCode :
    CanRaise .reject 0x81#8 1#3 ∧
    (∃ t : State, exec (.r8 0x00001#17 0x00#8) idle = .next t ∧ t.err = false) ∧
    (∃ t : State, exec (.w8 0x00003#17 0x01#8) idle = .next t ∧ t.err = false) ∧ (0x00003#17 : HostAddr) ≠ 0#17 := by
  refine ⟨?_, next_of_got (by decide +kernel), next_of_got (by decide +kernel), by decide +kernel⟩
  obtain ⟨t, h, ht⟩ := next_of_got (f := fun s => (s.err, s.errcode)) (o := exec (.w8 0x00000#17 0x81#8) idle)
    (x := (true, 1#3)) (by decide +kernel)
  exact ⟨idle, t, by decide +kernel, rfl, rfl, rfl, rfl, h, congrArg Prod.fst ht, congrArg Prod.snd ht⟩

/-- FoldStepEffect: the substituted byte, and the last key byte of a backward walk. -/
theorem witness_FoldStepEffect :
    let s : State := { idleAb.start .hash16 with pass := true }
    let u : State := { idleLen 1024#16 with busy := true, idx := 1023#16, rem := 1024#16, keybuf := [(1023, 0x5A#8)] }
    s.busy = true ∧ s.rem ≠ 0#16 ∧ s.idx.toNat < s.params.keyCap ∧ (s.opl = .hash16 ∧ s.pass = true ∧ s.idx = 0#16) ∧
    (0x62#8).toNat = ((s.keyByte 0).toNat + 1) % 255 ∧
    u.busy = true ∧ u.rem ≠ 0#16 ∧ u.idx.toNat < u.params.keyCap ∧
    ¬(u.opl = .hash16 ∧ u.pass = true ∧ u.idx = 0#16) ∧ 0x5A#8 = u.keyByte u.idx.toNat := by decide +kernel

theorem witness_FoldOutsideBufferFaults :
    let s : State := { idle with busy := true, idx := 1024#16, rem := 1#16 }
    s.busy = true ∧ s.rem ≠ 0#16 ∧ s.params.keyCap ≤ s.idx.toNat := by decide +kernel

theorem witness_EndOfPassEffects :
    let s : State := { idleAb.start .hash16 with idx := 2#16, rem := 0#16 }
    s.busy = true ∧ s.rem = 0#16 ∧ s.opl = .hash16 ∧ s.pass = false ∧
    ({ s with pass := true } : State).pass = true ∧ (idle.start .wikipedia).opl ≠ .hash16 ∧
    (idle.start .wikipedia).rem = 0#16 := by decide +kernel

theorem witness_PerturbedByteValues : (0xFD#8).toNat ≤ 253 ∧ perturb 0xFD#8 = 0xFE#8 ∧ perturb 0x00#8 = 0x01#8 := by
  decide +kernel

/-- InstanceParametersAtReset: an instance under TRUNCATE. -/
theorem witness_InstanceParametersAtReset : PermTable.wf Config.identityTable ∧ plainTruncate.params.wf ∧
    plainTruncate.params.rfcLong = .truncate := ⟨Config.identityTable_wf, by decide, rfl⟩

theorem witness_FoldIsBijection : PermTable.wf Config.identityTable ∧ plain.Inv := ⟨Config.identityTable_wf, witness_inv⟩

theorem witness_Hash16Digest : idleAb.inputs = [] ∧ idleAb.busy = false ∧
    idleAb.keylen.toNat ≤ idleAb.params.keyCap ∧ idleAb.key = 0x61#8 :: [0x62#8] := by decide +kernel

theorem witness_Hash16HalvesDiffer : plain.Inv ∧ plain.inputs = [] ∧ plain.busy = false ∧ plain.keylen = 1#16 :=
  ⟨witness_inv, by decide +kernel⟩

/-- DigestDependsOnKeyAlone: two states that differ in an old digest and in a key byte after the key. -/
theorem witness_DigestDependsOnKeyAlone :
    let t : State := { idleAb with digest := 0x1234#16, err := true, keybuf := [(0, 0x61#8), (1, 0x62#8), (2, 0x63#8)] }
    idleAb.inputs = [] ∧ t.inputs = [] ∧ idleAb.busy = false ∧ t.busy = false ∧ idleAb.rom = t.rom ∧
    idleAb.keylen = t.keylen ∧ (∀ i : Nat, i < idleAb.keylen.toNat → idleAb.keyByte i = t.keyByte i) ∧
    idleAb.accepts .hash16 ∧ t.accepts .hash16 ∧ idleAb ≠ t := by
  refine ⟨rfl, rfl, rfl, rfl, rfl, rfl, by decide +kernel, by unfold State.accepts; decide +kernel, by unfold State.accepts; decide +kernel, ?_⟩
  intro h
  exact absurd (congrArg State.err h) (by decide +kernel)

/-- HostCannotDisturbOperation: WIKIPEDIA on one byte, with a read and an ignored key write in between. -/
theorem witness_HostCannotDisturbOperation :
    let s : State := plain.start .wikipedia
    let sched : List Input := [.host 0x0000100#26, .engine, .host 0x3000000#26]
    (∀ x ∈ sched, x = .engine ∨ ∃ w, x = .host w) ∧
    (∀ k : Nat, k ≤ sched.count .engine → ∃ v : State, runSteps k { s with inputs := [] } = .next v ∧ v.busy = true) ∧
    ∃ u : State, runSteps (sched.count .engine + 1) { s with inputs := [] } = .next u ∧ u.busy = false := by
  refine ⟨fun x hx => ?_, fun k hk => next_of_got ?_, next_of_got (by decide +kernel)⟩
  · simp only [List.mem_cons, List.not_mem_nil, or_false] at hx
    rcases hx with rfl | rfl | rfl
    · exact .inr ⟨_, rfl⟩
    · exact .inl rfl
    · exact .inr ⟨_, rfl⟩
  · have h1 : k ≤ 1 := hk
    interval_cases k <;> decide +kernel

/-- DigestWrittenOnlyAtCompletion, RomNeverChanges: a completion and a reset that change DIGEST. -/
theorem witness_DigestWrittenOnlyAtCompletion :
    (∃ t : State, step { idleAb.start .hash16 with h1 := 0x3C#8, h := 0xA6#8, rem := 0#16, pass := true } = .next t ∧
      t.digest = 0x3CA6#16) ∧
    (∃ t : State, step { idle.start .wikipedia with h := 0x05#8 } = .next t ∧ t.digest = 0x0005#16) ∧
    (∃ t : State, step { idle with digest := 0x3CA6#16, inputs := [.reset none] } = .next t ∧ t.digest = 0#16) :=
  ⟨next_of_got (by decide +kernel), next_of_got (by decide +kernel), next_of_got (by decide +kernel)⟩

/-- FirstPassLatchWrites: the inter-pass step and a reset. -/
theorem witness_FirstPassLatchWrites :
    (∃ t : State, step { idleAb.start .hash16 with h := 0x3C#8, rem := 0#16 } = .next t ∧ t.h1 = 0x3C#8) ∧
    (∃ t : State, step { idle with h1 := 0x3C#8, inputs := [.reset none] } = .next t ∧ t.h1 = 0#8) :=
  ⟨next_of_got (by decide +kernel), next_of_got (by decide +kernel)⟩

/-- BusyRisesAndFalls, FlagWriters: an acceptance, a final engine step, a reset, and a failed command. -/
theorem witness_BusyRisesAndFalls :
    (∃ t : State, step (idle.withFetchWord 8 0x82) = .next t ∧ t.busy = true) ∧
    (∃ t : State, step (idle.start .wikipedia) = .next t ∧ t.busy = false) ∧
    (∃ t : State, step { idle.start .wikipedia with inputs := [.reset none] } = .next t ∧ t.busy = false) ∧
    (∃ t : State, step (idle.withFetchWord 8 0x81) = .next t ∧ t.err = true) :=
  ⟨next_of_got (by decide +kernel), next_of_got (by decide +kernel), next_of_got (by decide +kernel), next_of_got (by decide +kernel)⟩

/-- KeyWriters: the last key byte and a KEYLEN byte change, each by a host write. -/
theorem witness_KeyWriters :
    (∃ t : State, step ({ idle with keybuf := [(1023, 0x00#8)] }.withFetchWord 32 0x303FF7E) = .next t ∧
      t.keyByte 1023 = 0x7E#8) ∧ State.keyByte { idle with keybuf := [(1023, 0x00#8)] } 1023 ≠ 0x7E#8 ∧
    (∃ t : State, step (idle.withFetchWord 32 0x2000201) = .next t ∧ t.keylen = 0x0100#16) :=
  ⟨next_of_got (by decide +kernel), by decide +kernel, next_of_got (by decide +kernel)⟩

theorem witness_LdkeyLoadsKey :
    let s : State := { idle with inputs := hostTurns (Pseudo.ldkey [0x61#8, 0x62#8]).expand }
    s.busy = false ∧ s.params.wf ∧ (Pseudo.ldkey [0x61#8, 0x62#8]).wf s.params.keyCap = true ∧
    s.inputs = hostTurns (Pseudo.ldkey [0x61#8, 0x62#8]).expand := by decide +kernel

/-- CycleIsInterleaving: idle and busy, with and without a transaction, and reset. -/
theorem witness_CycleIsInterleaving : idle.inputs = [] ∧ (idleAb.start .hash16).inputs = [] ∧
    turnsOfCycle true false (some 0x0000100#26) = [.host 0x0000100#26, .engine] ∧
    turnsOfCycle false false none = [] ∧ turnsOfCycle true true none = [.reset none] := by decide +kernel

end Sys2Proof.Tests
end

/-! PROOFS of 00_scope.md: the instance's parameters, and the invariants at the reset of every instance. -/

namespace Sys2Proof.Machine

/-- The clauses of R45 about a running operation ask nothing of an idle state with PASS = 0: what is left is the
instance, KEYBUF and the error flags. -/
theorem State.inv_of_idle {s : State} (hparams : s.params.wf) (hrom : PermTable.wf s.rom) (hkeys : Memory.wf s.keybuf)
    (hbelow : ∀ c ∈ s.keybuf, c.1 < s.params.keyCap) (hidle : s.busy = false) (hpass : s.pass = false)
    (hcode : s.err = true ↔ s.errcode ≠ 0b000#3) (hdone : s.err = true → s.done = true)
    (hle : s.errcode.toNat ≤ 4) : s.Inv := by
  have hrun : s.busy ≠ true := Bool.eq_false_iff.1 hidle
  exact {
    params_wf := hparams
    rom_perm := hrom
    keybuf_wf := hkeys
    keybuf_below := hbelow
    idle_pass := fun _ => hpass
    pass_hash16 := fun h => absurd h (Bool.eq_false_iff.1 hpass)
    busy_status := fun h => absurd h hrun
    busy_keylen := fun h => absurd h hrun
    busy_rfc3074 := fun h => absurd h hrun
    busy_nonempty := fun h => absurd h hrun
    walk_backward := fun h => absurd h hrun
    walk_forward := fun h => absurd h hrun
    walk_inside := fun h => absurd h hrun
    err_code := hcode
    err_done := fun h => ⟨hdone h, hidle⟩
    errcode_le := hle }

/-- The reset state of any instance is idle, with KEYBUF unwritten and no error reported (R43, R44). -/
theorem State.afterReset_inv {rom : PermTable} {p : Params} (hrom : PermTable.wf rom) (hp : p.wf) (epoch : Nat)
    (inputs : List Input) : (State.afterReset rom p epoch inputs).Inv :=
  State.inv_of_idle (s := State.afterReset rom p epoch inputs) hp hrom Memory.wf_nil
    (hbelow := fun _ hc => absurd hc List.not_mem_nil) (hidle := rfl) (hpass := rfl)
    (hcode := by simp [State.afterReset]) (hdone := by simp [State.afterReset]) (hle := by simp [State.afterReset])

/-- Settles O60: KEY_CAP by the range of the open parameters, the policy by R8's default, every other instance by the
invariants of its reset state. -/
theorem instanceParametersAtReset : Obligations.InstanceParametersAtReset :=
  ⟨Config.params_wf, rfl, fun _ _ epoch inputs hrom hp => State.afterReset_inv hrom hp epoch inputs⟩

end Sys2Proof.Machine

/-! PROOFS of 10_state.md: what acceptance, a host write, an engine turn and a step write and what they leave, said once;
the invariants over every step (R45); and the writers of each register (R24, R30 to R42). -/

namespace Sys2Proof.Machine

namespace State

/-- The preconditions of a command look at KEYLEN and the parameters alone (R104, R105). -/
theorem accepts_congr {s t : State} (hk : t.keylen = s.keylen) (hp : t.params = s.params) (v : Variant) :
    t.accepts v ↔ s.accepts v := by
  cases v <;> simp only [accepts, hk, hp]

/-- Acceptance comes to one of two ends (R107): an error completion, or the start of the operation that the byte
names, under its preconditions. -/
theorem accept_fails_or_starts (s : State) (c : Byte) :
    (∃ code, s.accept c = s.clearStatus.raise code) ∨
    (Byte.rsvd c = 0#5 ∧ s.accepts (Variant.ofBits (Byte.variant c)) ∧
      s.accept c = s.clearStatus.start (Variant.ofBits (Byte.variant c))) := by
  rcases accept_cases s c with ⟨-, h⟩ | ⟨hr, h⟩
  · exact .inl ⟨_, h⟩
  rw [h]
  rcases acceptVariant_cases s.clearStatus (Variant.ofBits (Byte.variant c)) with
    ⟨ha, h⟩ | ⟨-, h⟩ | ⟨-, -, -, -, h⟩ | ⟨-, -, -, h⟩
  · exact .inr ⟨hr, (accepts_congr rfl rfl _).1 ha, h⟩
  all_goals exact .inl ⟨_, h⟩

/-- Acceptance writes STATUS, H, IDX, REM, OPL and PASS, and nothing else (R20). -/
theorem accept_frame (s : State) (c : Byte) :
    s.accept c = { s with
      busy := (s.accept c).busy, done := (s.accept c).done, err := (s.accept c).err, errcode := (s.accept c).errcode
      h := (s.accept c).h, idx := (s.accept c).idx, rem := (s.accept c).rem, opl := (s.accept c).opl
      pass := (s.accept c).pass } := by
  rcases accept_fails_or_starts s c with ⟨_, h⟩ | ⟨-, -, h⟩ <;> rw [h] <;> rfl

/-- A host write leaves the ROM, the parameters, DIGEST and H1 (R24, R30, R41). -/
theorem portWrite_frame (s : State) (a : HostAddr) (v : Byte) :
    (s.portWrite a v).rom = s.rom ∧ (s.portWrite a v).params = s.params ∧ (s.portWrite a v).digest = s.digest ∧
    (s.portWrite a v).h1 = s.h1 := by
  rcases portWrite_cases s a v with h | ⟨-, -, -, h⟩ | ⟨-, -, h⟩ | ⟨-, -, h⟩ | ⟨-, i, -, -, h⟩ <;> rw [h]
  case inr.inl => rw [accept_frame]; exact ⟨rfl, rfl, rfl, rfl⟩
  all_goals exact ⟨rfl, rfl, rfl, rfl⟩

end State

/-- An engine turn writes BUSY, DONE, DIGEST, H, H1, IDX, REM and PASS, and nothing else (R20). -/
theorem engineTurn_frame {s t : State} (h : engineTurn s = .next t) :
    t = { s with
      busy := t.busy, done := t.done, digest := t.digest, h := t.h, h1 := t.h1, idx := t.idx, rem := t.rem
      pass := t.pass } := by
  rcases engineTurn_cases h with ⟨-, rfl⟩ | ⟨-, -, -, rfl⟩ | ⟨-, -, -, -, rfl⟩ | ⟨-, -, -, -, rfl⟩ | ⟨-, -, -, rfl⟩ <;>
    rfl

/-- R100: a read drives the byte that the map holds, and changes nothing else. -/
theorem exec_r8_of_portRead {s : State} {a : HostAddr} {d b : Byte} (h : s.portRead a = b) :
    exec (.r8 a d) s = .next { s with rdata := some b } := by
  rw [← h]
  rfl

/-- Whose turn a step took, and from which state it was taken (R50): the platform's, the engine's, or the host's, with a
read or a write. -/
theorem step_turn {s t : State} (h : step s = .next t) :
    (∃ p rest, s.inputs = .reset p :: rest ∧ t = (s.takeTurn rest).resetCycle p) ∨
    (∃ rest, (s.inputs = [] ∨ ∃ later, s.inputs = .engine :: later) ∧ engineTurn (s.takeTurn rest) = .next t) ∨
    (∃ v rest, t = (s.beginPort rest).driveRead v) ∨
    (∃ a v rest, s.inputs = .host (TxnWord.make 1#1 a v) :: rest ∧ t = (s.beginPort rest).portWrite a v) := by
  rcases step_cases h with ⟨hi, h⟩ | ⟨rest, hi, h⟩ | ⟨p, rest, hi, h⟩ | ⟨w, rest, hi, h⟩
  · exact .inr (.inl ⟨[], .inl hi, by rw [← hi]; exact h⟩)
  · exact .inr (.inl ⟨rest, .inr ⟨rest, hi⟩, h⟩)
  · exact .inl ⟨p, rest, hi, h⟩
  rcases execTransaction_cases w (s.beginPort rest) with ⟨-, he⟩ | ⟨hw, he⟩ <;> rw [he] at h <;> injection h with h
  · exact .inr (.inr (.inl ⟨_, rest, h.symm⟩))
  · exact .inr (.inr (.inr ⟨_, _, rest, by rw [hi, ← hw, TxnWord.make_fields], h.symm⟩))

/-! ### The invariants -/

/-- Counting down from any value but 0 does not wrap (R25, R26). -/
theorem toNat_sub_one {x : Half} (h : x ≠ 0#16) : (x - 1#16).toNat + 1 = x.toNat := by bv_omega

/-- Counting up from an index below a 16-bit length does not wrap (R25). -/
theorem toNat_add_one {x y : Half} (h : x.toNat < y.toNat) : (x + 1#16).toNat = x.toNat + 1 := by bv_omega

theorem ErrCode.bits_ne_zero (code : ErrCode) : code.bits ≠ 0b000#3 := by cases code <;> decide

theorem ErrCode.toNat_bits_le (code : ErrCode) : code.bits.toNat ≤ 4 := by cases code <;> decide

namespace State.Inv

variable {s : State}

/-- The invariants say nothing of the turns to come, nor of rdata. -/
theorem of_port (h : s.Inv) (inputs : List Input) (rdata : Option Byte) :
    ({ s with inputs := inputs, rdata := rdata } : State).Inv :=
  { h with }

/-- An idle PHE keeps the invariants under any KEYLEN (R33). -/
theorem keylen_of_idle (h : s.Inv) (hb : s.busy = false) (k : Half) : ({ s with keylen := k } : State).Inv :=
  inv_of_idle h.params_wf h.rom_perm h.keybuf_wf h.keybuf_below hb (h.idle_pass hb) h.err_code
    (fun he => (h.err_done he).1) h.errcode_le

theorem setKeyByte (h : s.Inv) {i : Nat} (hi : i < s.params.keyCap) (v : Byte) : (s.setKeyByte i v).Inv :=
  { h with
    keybuf_wf := Memory.wf_write h.keybuf_wf i v
    keybuf_below := fun c hc => by
      rcases Memory.mem_write hc with rfl | hc
      · exact hi
      · exact h.keybuf_below c hc }

/-- An error completion reports a code of R181, with ERR and DONE set (R183). -/
theorem clearStatus_raise (h : s.Inv) (hb : s.busy = false) (code : ErrCode) : (s.clearStatus.raise code).Inv :=
  inv_of_idle h.params_wf h.rom_perm h.keybuf_wf h.keybuf_below hb (h.idle_pass hb)
    (hcode := iff_of_true rfl code.bits_ne_zero) (hdone := fun _ => rfl) (hle := code.toNat_bits_le)

/-- An operation that starts under its preconditions begins its walk at one end of the key (R106). -/
theorem clearStatus_start (h : s.Inv) {v : Variant} (ha : s.accepts v) : (s.clearStatus.start v).Inv where
  params_wf := h.params_wf
  rom_perm := h.rom_perm
  keybuf_wf := h.keybuf_wf
  keybuf_below := h.keybuf_below
  idle_pass := fun hb => nomatch hb
  pass_hash16 := fun hp => nomatch hp
  busy_status := fun _ => ⟨rfl, rfl, rfl⟩
  busy_keylen := fun _ => by
    cases v
    case wikipedia => exact ha
    all_goals exact ha.1
  busy_rfc3074 := fun _ ho => by
    obtain rfl : v = .rfc3074 := ho
    exact ha.2
  busy_nonempty := fun _ ho => by
    obtain rfl | rfl : v = .original ∨ v = .hash16 := ho
    · exact ha.2
    · exact ha.2
  walk_backward := fun _ hr ho => by
    obtain rfl : v = .rfc3074 := ho
    exact toNat_sub_one hr
  walk_forward := fun _ _ ho => by
    have hv : v ≠ .rfc3074 := ho
    simp [hv]
  walk_inside := fun _ hr => by
    have hk := toNat_sub_one (x := s.keylen) hr
    show (if v = .rfc3074 then s.keylen - 1#16 else 0#16).toNat < s.keylen.toNat
    split
    · omega
    · show 0 < s.keylen.toNat
      omega
  err_code := by simp
  err_done := fun he => nomatch he
  errcode_le := by simp

/-- A fold moves the walk by one byte (R111, R113). -/
theorem fold (h : s.Inv) (hb : s.busy = true) (hr : s.rem ≠ 0#16) : s.fold.Inv := by
  have hrem := toNat_sub_one hr
  have hin := h.walk_inside hb hr
  have hidx : s.opl ≠ .rfc3074 → s.fold.idx.toNat = s.idx.toNat + 1 := fun ho => by
    simp only [fold_idx, nextIndex, if_neg ho, toNat_add_one hin]
  have hback : s.fold.rem ≠ 0#16 → s.opl = .rfc3074 →
      s.fold.idx.toNat + 1 = s.fold.rem.toNat ∧ s.fold.rem.toNat = s.idx.toNat := fun hr' ho => by
    have hw := h.walk_backward hb hr ho
    have heq : s.idx = s.rem - 1#16 := by bv_omega
    simp only [fold_idx, fold_rem, nextIndex, if_pos ho, heq] at hr' ⊢
    exact ⟨toNat_sub_one hr', trivial⟩
  exact { h with
    walk_backward := fun _ hr' ho => (hback hr' ho).1
    walk_forward := fun _ _ ho => by
      have hw := h.walk_forward hb hr ho
      have hi := hidx ho
      simp only [fold_rem, fold_keylen]
      omega
    walk_inside := fun _ hr' => by
      have hpos := toNat_sub_one hr'
      by_cases ho : s.opl = .rfc3074
      · have hw := hback hr' ho
        simp only [fold_keylen]
        omega
      · have hw := h.walk_forward hb hr ho
        have hi := hidx ho
        simp only [fold_rem, fold_keylen] at hpos ⊢
        omega }

/-- HASH16's second pass begins its walk at the start of the key (R164). -/
theorem interpass (h : s.Inv) (hb : s.busy = true) (ho : s.opl = .hash16) : s.interpass.Inv :=
  { h with
    idle_pass := fun hi => absurd hb (Bool.eq_false_iff.1 hi)
    pass_hash16 := fun _ => ho
    walk_backward := fun _ _ hr => by simp [ho] at hr
    walk_forward := fun _ _ _ => by simp
    walk_inside := fun _ hr => by
      have hk := toNat_sub_one (x := s.keylen) hr
      show 0 < s.keylen.toNat
      omega }

/-- The final engine step of an operation leaves an idle PHE with no error reported (R131, R165). -/
theorem finish (h : s.Inv) (digest : Half) : ({ s with digest := digest } : State).finish.Inv :=
  inv_of_idle h.params_wf h.rom_perm h.keybuf_wf h.keybuf_below (hidle := rfl) (hpass := rfl) h.err_code
    (hdone := fun _ => rfl) h.errcode_le

theorem accept (h : s.Inv) (hb : s.busy = false) (c : Byte) : (s.accept c).Inv := by
  rcases accept_fails_or_starts s c with ⟨code, he⟩ | ⟨-, ha, he⟩ <;> rw [he]
  · exact h.clearStatus_raise hb code
  · exact h.clearStatus_start ha

theorem portWrite (h : s.Inv) (a : HostAddr) (v : Byte) : (s.portWrite a v).Inv := by
  rcases portWrite_cases s a v with he | ⟨hb, -, -, he⟩ | ⟨hb, -, he⟩ | ⟨hb, -, he⟩ | ⟨-, i, -, hi, he⟩ <;> rw [he]
  · exact h
  · exact h.accept hb v
  · exact h.keylen_of_idle hb _
  · exact h.keylen_of_idle hb _
  · exact h.setKeyByte hi v

end State.Inv

theorem engineTurn_keeps_inv {s t : State} (h : s.Inv) (he : engineTurn s = .next t) : t.Inv := by
  rcases engineTurn_cases he with ⟨-, rfl⟩ | ⟨hb, hr, -, rfl⟩ | ⟨hb, -, ho, -, rfl⟩ | ⟨-, -, -, -, rfl⟩ | ⟨-, -, -, rfl⟩
  · exact h
  · exact h.fold hb hr
  · exact h.interpass hb ho
  · exact h.finish _
  · exact h.finish _

/-- Settles O49: each agent's turn keeps the invariants, and they say nothing of the turns to come. -/
theorem stepKeepsInvariants : Obligations.StepKeepsInvariants := by
  intro s t h hs
  rcases step_turn hs with ⟨p, rest, -, rfl⟩ | ⟨rest, -, he⟩ | ⟨v, rest, rfl⟩ | ⟨a, v, rest, -, rfl⟩
  · exact (State.afterReset_inv h.rom_perm h.params_wf (s.keyEpoch + 1) rest).of_port rest _
  · exact engineTurn_keeps_inv (h.of_port rest s.rdata) he
  · exact h.of_port rest (some v)
  · exact (h.of_port rest none).portWrite a v

/-! ### Safety, and the writers of each register -/

/-- Settles O51: acceptance, the port and the engine leave both, and reset takes them over. -/
theorem romNeverChanges : Obligations.RomNeverChanges := by
  intro s t h
  rcases step_turn h with ⟨p, rest, -, rfl⟩ | ⟨rest, -, he⟩ | ⟨v, rest, rfl⟩ | ⟨a, v, rest, -, rfl⟩
  · exact ⟨rfl, rfl⟩
  · rw [engineTurn_frame he]
    exact ⟨rfl, rfl⟩
  · exact ⟨rfl, rfl⟩
  · obtain ⟨hrom, hparams, -, -⟩ := (s.beginPort rest).portWrite_frame a v
    exact ⟨hrom, hparams⟩

/-- The invariants keep every fold inside KEYBUF, so that an engine turn has a next state (R45, R142). -/
theorem engineTurn_next_of_inv {s : State} (h : s.Inv) : ∃ t, engineTurn s = .next t := by
  cases hb : s.busy
  · exact ⟨s, by simp [engineTurn, hb]⟩
  by_cases hr : s.rem = 0#16
  · exact ⟨_, engineTurn_endOfPass hb hr⟩
  · exact ⟨_, engineTurn_fold hb hr ((h.walk_inside hb hr).trans_le (h.busy_keylen hb))⟩

theorem step_next_of_inv {s : State} (h : s.Inv) : ∃ t, step s = .next t := by
  rw [step]
  split
  · exact engineTurn_next_of_inv h
  · exact exec_next _ _
  · exact engineTurn_next_of_inv (h.of_port _ s.rdata)
  · exact ⟨_, rfl⟩

/-- Settles O50, by induction on the number of steps: the invariants give the next step, and it keeps them. -/
theorem invariantStatesRunForever : Obligations.InvariantStatesRunForever := by
  intro s h n
  induction n generalizing s with
  | zero => exact ⟨s, rfl⟩
  | succ n ih =>
    obtain ⟨u, hu⟩ := step_next_of_inv h
    rw [runSteps_succ hu]
    exact ih u (stepKeepsInvariants s u h hu)

/-- R54: a read in the ROM window returns the entry of the table. -/
theorem State.portRead_table (s : State) {a : HostAddr} {i : Nat} (hi : i < 256) (h : a.toNat = 0x00100 + i) :
    s.portRead a = s.rom[i] := by
  have hn : (BitVec.ofNat 8 i).toNat = i := Nat.mod_eq_of_lt hi
  simp only [portRead, targetOf_table _ hi h, readTarget, romByte, hn]

/-- Settles O20: two addresses of the window are two entries of a permutation. -/
theorem romWindowHoldsPermutation : Obligations.RomWindowHoldsPermutation := by
  intro s a b d h ha ha' hb hb' hab
  obtain ⟨i, hi⟩ := Nat.exists_eq_add_of_le ha
  obtain ⟨j, hj⟩ := Nat.exists_eq_add_of_le hb
  have hi' : i < 256 := by omega
  have hj' : j < 256 := by omega
  have hne : s.portRead a ≠ s.portRead b := by
    rw [s.portRead_table hi' hi, s.portRead_table hj' hj]
    intro he
    have hij := PermTable.wf_inj h.rom_perm hi' hj' he
    exact hab (BitVec.eq_of_toNat_eq (by omega))
  exact ⟨_, _, hne, exec_r8_of_portRead rfl, exec_r8_of_portRead rfl⟩

/-- Settles O52: the turns of the port leave DIGEST, and so does every engine step but the two completions. -/
theorem digestWrittenOnlyAtCompletion : Obligations.DigestWrittenOnlyAtCompletion := by
  intro s t h hne
  rcases step_turn h with ⟨p, rest, hi, rfl⟩ | ⟨rest, -, he⟩ | ⟨v, rest, rfl⟩ | ⟨a, v, rest, -, rfl⟩
  case inl => exact .inl ⟨p, rest, hi, rfl⟩
  case inr.inl =>
    right
    rcases engineTurn_cases he with ⟨-, rfl⟩ | ⟨-, -, -, rfl⟩ | ⟨-, -, -, -, rfl⟩ | ⟨hb, hr, ho, hp, rfl⟩ |
      ⟨hb, hr, ho, rfl⟩
    case inr.inr.inr.inl =>
      exact ⟨hb, rfl, hr, rfl, rfl, .inr ⟨ho, hp, toNat_ofBytes s.h1 s.h⟩⟩
    case inr.inr.inr.inr =>
      exact ⟨hb, rfl, hr, rfl, rfl, .inl ⟨ho, BitVec.toNat_setWidth_of_le (b := s.h) (by decide)⟩⟩
    all_goals exact absurd rfl hne
  case inr.inr.inl => exact absurd rfl hne
  case inr.inr.inr =>
    obtain ⟨-, -, hdigest, -⟩ := (s.beginPort rest).portWrite_frame a v
    exact absurd hdigest hne

/-- Settles O53: the turns of the port leave H1, and so does every engine step but the inter-pass step. -/
theorem firstPassLatchWrites : Obligations.FirstPassLatchWrites := by
  intro s t h hne
  rcases step_turn h with ⟨p, rest, hi, rfl⟩ | ⟨rest, -, he⟩ | ⟨v, rest, rfl⟩ | ⟨a, v, rest, -, rfl⟩
  case inl => exact .inl ⟨p, rest, hi, rfl⟩
  case inr.inl =>
    rcases engineTurn_cases he with ⟨-, rfl⟩ | ⟨-, -, -, rfl⟩ | ⟨hb, hr, ho, hp, rfl⟩ | ⟨-, -, -, -, rfl⟩ | ⟨-, -, -, rfl⟩
    case inr.inr.inl => exact .inr ⟨hb, hr, ho, hp, rfl, rfl⟩
    all_goals exact absurd rfl hne
  case inr.inr.inl => exact absurd rfl hne
  case inr.inr.inr =>
    obtain ⟨-, -, -, hh1⟩ := (s.beginPort rest).portWrite_frame a v
    exact absurd hh1 hne

/-- A write to CMD of a byte with START = 1 and RSVD = 0 is the transaction of a command (R84, R90). -/
theorem encodeTransaction_command {c : Byte} (hs : Byte.start c = 1#1) (hr : Byte.rsvd c = 0#5) :
    encodeTransaction (Variant.ofBits (Byte.variant c)).command = TxnWord.make 1#1 0x00000#17 c := by
  have hc : encode (Variant.ofBits (Byte.variant c)).command = .command c := by
    revert c; decide
  rw [encodeTransaction, hc, Encoded.toTransaction]

/-- R37: of the writes to an idle PHE, only a command whose preconditions hold raises BUSY. -/
theorem State.portWrite_rises {s : State} {a : HostAddr} {v : Byte} (hb : s.busy = false)
    (ht : (s.portWrite a v).busy = true) :
    a = 0x00000#17 ∧ Byte.start v = 1#1 ∧ Byte.rsvd v = 0#5 ∧ s.accepts (Variant.ofBits (Byte.variant v)) ∧
    (s.portWrite a v).opl = Variant.ofBits (Byte.variant v) := by
  have hidle : s.busy ≠ true := Bool.eq_false_iff.1 hb
  rcases portWrite_cases s a v with he | ⟨-, ha, hs, he⟩ | ⟨-, -, he⟩ | ⟨-, -, he⟩ | ⟨-, i, -, -, he⟩ <;> rw [he] at ht ⊢
  case inr.inl =>
    rcases accept_fails_or_starts s v with ⟨code, hf⟩ | ⟨hr, hacc, hf⟩ <;> rw [hf] at ht ⊢
    · exact absurd ht hidle
    · exact ⟨ha, hs, hr, hacc, rfl⟩
  all_goals exact absurd ht hidle

/-- R37: an engine turn that ends an operation is its final step. -/
theorem engineTurn_falls {s t : State} (h : engineTurn s = .next t) (hb : s.busy = true) (ht : t.busy = false) :
    s.rem = 0#16 ∧ (s.opl = .hash16 → s.pass = true) ∧ t.done = true := by
  have hrun : s.busy ≠ false := by simp [hb]
  rcases engineTurn_cases h with ⟨hi, -⟩ | ⟨-, -, -, rfl⟩ | ⟨-, -, -, -, rfl⟩ | ⟨-, hr, -, hp, rfl⟩ | ⟨-, hr, ho, rfl⟩
  case inr.inr.inr.inl => exact ⟨hr, fun _ => hp, rfl⟩
  case inr.inr.inr.inr => exact ⟨hr, fun h => absurd h ho, rfl⟩
  case inl => exact absurd hi hrun
  all_goals exact absurd ht hrun

/-- An idle engine has no step (R110). -/
theorem engineTurn_idle {s t : State} (h : engineTurn s = .next t) (hb : s.busy = false) : t = s := by
  rw [engineTurn, hb] at h
  injection h with h
  exact h.symm

/-- Settles O54: BUSY rises by the host's write of a command, and falls by the platform's reset or the engine's final
step. -/
theorem busyRisesAndFalls : Obligations.BusyRisesAndFalls := by
  intro s t h
  rcases step_turn h with ⟨p, rest, hi, rfl⟩ | ⟨rest, hi, he⟩ | ⟨v, rest, rfl⟩ | ⟨a, v, rest, hi, rfl⟩
  · exact ⟨fun _ ht => (nomatch ht), fun _ _ => .inl ⟨p, rest, hi⟩⟩
  · refine ⟨fun hb ht => ?_, fun hb ht => .inr ⟨hi, engineTurn_falls (s := s.takeTurn rest) he hb ht⟩⟩
    rw [engineTurn_idle he hb] at ht
    exact nomatch hb.symm.trans ht
  · exact ⟨fun hb ht => (nomatch hb.symm.trans ht), fun hb ht => nomatch ht.symm.trans hb⟩
  · refine ⟨fun hb ht => ?_, fun hb ht => ?_⟩
    · obtain ⟨rfl, hs, hr, hacc, hopl⟩ := State.portWrite_rises (s := s.beginPort rest) hb ht
      exact ⟨_, rest, by rw [hi, encodeTransaction_command hs hr],
        (State.accepts_congr (s := s) rfl rfl _).1 hacc, hopl⟩
    · rw [State.portWrite_busy (s := s.beginPort rest) hb] at ht
      exact nomatch ht.symm.trans hb

/-- R42: a host write that changes a flag is a byte with START = 1 written to CMD while idle. -/
theorem State.portWrite_flags {s : State} {a : HostAddr} {v : Byte}
    (h : (s.portWrite a v).busy ≠ s.busy ∨ (s.portWrite a v).done ≠ s.done ∨ (s.portWrite a v).err ≠ s.err ∨
      (s.portWrite a v).errcode ≠ s.errcode) :
    s.busy = false ∧ a = 0x00000#17 ∧ Byte.start v = 1#1 := by
  rcases portWrite_cases s a v with he | ⟨hb, ha, hs, -⟩ | ⟨-, -, he⟩ | ⟨-, -, he⟩ | ⟨-, i, -, -, he⟩
  case inr.inl => exact ⟨hb, ha, hs⟩
  all_goals simp [he] at h

/-- R42: an engine turn that changes a flag is the final step, which leaves ERR and ERRCODE. -/
theorem engineTurn_flags {s t : State} (he : engineTurn s = .next t)
    (h : t.busy ≠ s.busy ∨ t.done ≠ s.done ∨ t.err ≠ s.err ∨ t.errcode ≠ s.errcode) :
    s.busy = true ∧ s.rem = 0#16 ∧ t.busy = false ∧ t.done = true ∧ t.err = s.err ∧ t.errcode = s.errcode := by
  rcases engineTurn_cases he with ⟨-, rfl⟩ | ⟨-, -, -, rfl⟩ | ⟨-, -, -, -, rfl⟩ | ⟨hb, hr, -, -, rfl⟩ | ⟨hb, hr, -, rfl⟩
  case inr.inr.inr.inl => exact ⟨hb, hr, rfl, rfl, rfl, rfl⟩
  case inr.inr.inr.inr => exact ⟨hb, hr, rfl, rfl, rfl, rfl⟩
  all_goals simp at h

/-- R83: START is bit 7. -/
theorem getLsbD_seven_iff_start (c : Byte) : c.getLsbD 7 = true ↔ Byte.start c = 1#1 := by
  revert c; decide

/-- Settles O55: reset, the acceptance procedure and the final engine step. -/
theorem flagWriters : Obligations.FlagWriters := by
  intro s t h hne
  rcases step_turn h with ⟨p, rest, hi, rfl⟩ | ⟨rest, hi, he⟩ | ⟨v, rest, rfl⟩ | ⟨a, v, rest, hi, rfl⟩
  · exact .inl ⟨p, rest, hi⟩
  · exact .inr (.inr (engineTurn_flags (s := s.takeTurn rest) he hne))
  · simp at hne
  · obtain ⟨hb, rfl, hs⟩ := State.portWrite_flags (s := s.beginPort rest) hne
    exact .inr (.inl ⟨v, rest, hb, (getLsbD_seven_iff_start v).2 hs, hi⟩)

/-- R32: a host write that changes a key byte is an idle write to its address, which stores the byte. -/
theorem State.portWrite_keyByte {s : State} {a : HostAddr} {v : Byte} {i : Nat}
    (h : (s.portWrite a v).keyByte i ≠ s.keyByte i) :
    s.busy = false ∧ i < s.params.keyCap ∧ a.toNat = 0x10000 + i ∧ (s.portWrite a v).keyByte i = v := by
  rcases portWrite_cases s a v with he | ⟨-, -, -, he⟩ | ⟨-, -, he⟩ | ⟨-, -, he⟩ | ⟨hb, j, ha, hj, he⟩ <;> rw [he] at h ⊢
  case inr.inr.inr.inr =>
    obtain rfl : i = j := by
      by_contra hij
      exact h (keyByte_setKeyByte_other s v hij)
    exact ⟨hb, hj, ha, keyByte_setKeyByte_same s i v⟩
  case inr.inl =>
    rw [accept_frame] at h
    exact absurd rfl h
  all_goals exact absurd rfl h

/-- R33: a host write that changes KEYLEN is an idle write to one of its two bytes. -/
theorem State.portWrite_keylen {s : State} {a : HostAddr} {v : Byte} (h : (s.portWrite a v).keylen ≠ s.keylen) :
    s.busy = false ∧ (a = 0x00002#17 ∨ a = 0x00003#17) := by
  rcases portWrite_cases s a v with he | ⟨-, -, -, he⟩ | ⟨hb, ha, -⟩ | ⟨hb, ha, -⟩ | ⟨-, j, -, -, he⟩
  case inr.inr.inl => exact ⟨hb, .inl ha⟩
  case inr.inr.inr.inl => exact ⟨hb, .inr ha⟩
  case inr.inl =>
    rw [he, accept_frame] at h
    exact absurd rfl h
  all_goals simp [he] at h

/-- Settles O56: the engine and reads leave both, so that a change is a reset's or a host write's. -/
theorem keyWriters : Obligations.KeyWriters := by
  intro s t h
  rcases step_turn h with ⟨p, rest, hi, rfl⟩ | ⟨rest, -, he⟩ | ⟨v, rest, rfl⟩ | ⟨a, v, rest, hi, rfl⟩
  · exact ⟨fun _ _ => .inl ⟨p, rest, hi⟩, fun _ => .inl ⟨p, rest, hi⟩⟩
  · rw [engineTurn_frame he]
    exact ⟨fun _ hne => absurd rfl hne, fun hne => absurd rfl hne⟩
  · exact ⟨fun _ hne => absurd rfl hne, fun hne => absurd rfl hne⟩
  · refine ⟨fun i hne => .inr ?_, fun hne => .inr ?_⟩
    · obtain ⟨hb, hlt, ha, hv⟩ := State.portWrite_keyByte (s := s.beginPort rest) hne
      exact ⟨hb, hlt, a, v, rest, hi, ha, hv⟩
    · obtain ⟨hb, ha⟩ := State.portWrite_keylen (s := s.beginPort rest) hne
      exact ⟨hb, a, v, rest, hi, ha⟩

/-! ### Reset, STATUS and KEYLEN at the port, and the fault -/

/-- Settles O48: State.reset is a reset state within the ranges of R8. -/
theorem invariantsHoldAtReset : Obligations.InvariantsHoldAtReset :=
  State.afterReset_inv Config.permTable_wf Config.params_wf 0 []

/-- Settles O12: each register by its reset value, the table by the range of the open parameters. -/
theorem resetStateValues : Obligations.ResetStateValues :=
  ⟨rfl, rfl, rfl, rfl, rfl, rfl, rfl, rfl, rfl, rfl, rfl, Config.permTable_wf⟩

theorem step_reset {s : State} {p : Option TxnWord} {rest : List Input} (h : s.inputs = .reset p :: rest) :
    step s = .next ((s.takeTurn rest).resetCycle p) := by
  simp only [step, h]

/-- Settles O13: reset leaves no written byte, so that every byte is a draw of the new reset's number. -/
theorem resetRedrawsKeyBuffer : Obligations.ResetRedrawsKeyBuffer := by
  refine ⟨fun _ => rfl, fun s t p rest hi h i => ?_⟩
  rw [step_reset hi] at h
  injection h with h
  rw [← h]
  rfl

namespace State

/-- R36: the STATUS byte, field by field. -/
theorem statusByte_fields (s : State) :
    s.statusByte.getLsbD 0 = s.busy ∧ s.statusByte.getLsbD 1 = s.done ∧ s.statusByte.getLsbD 2 = s.err ∧
    s.statusByte.getLsbD 3 = false ∧ s.statusByte.extractLsb' 4 3 = s.errcode ∧ s.statusByte.getLsbD 7 = false := by
  rw [statusByte]
  generalize s.errcode = code, s.err = err, s.done = done, s.busy = busy
  revert code err done busy
  decide

/-- R36: the host cannot write STATUS. -/
theorem portWrite_status (s : State) (v : Byte) : s.portWrite 0x00001#17 v = s := by
  simp [portWrite, whenIdle, targetOf_status, writeTarget]

end State

/-- R101: an idle write is the write of what the address reaches. -/
theorem exec_w8_of_idle {s : State} (hb : s.busy = false) (a : HostAddr) (v : Byte) :
    exec (.w8 a v) s = .next (s.writeTarget v (targetOf s.params.keyCap a)) :=
  congrArg Host.Outcome.next (State.whenIdle_idle hb _)

/-- Settles O15: the fields of the byte a read drives, which is the STATUS byte itself. -/
theorem statusRegister : Obligations.StatusRegister := by
  refine ⟨rfl, fun s d v => ⟨congrArg Host.Outcome.next (s.portWrite_status v), s.statusByte,
    exec_r8_of_portRead rfl, ?_⟩⟩
  obtain ⟨hbusy, hdone, herr, h3, hcode, h7⟩ := s.statusByte_fields
  exact ⟨hbusy, hdone, herr, h3, hcode, h7, hbusy.symm, hdone.symm⟩

/-- Settles O17: each write keeps the other byte, and each read returns its byte of the new value. -/
theorem keylenBytes : Obligations.KeylenBytes := by
  intro s v d hb
  refine ⟨⟨ofBytes v (loByte s.keylen), ?_, ?_, ?_⟩, ⟨ofBytes (hiByte s.keylen) v, ?_, ?_, ?_⟩⟩
  · exact exec_w8_of_idle hb _ v
  · rw [toNat_ofBytes, toNat_loByte]
  · exact exec_r8_of_portRead (hiByte_ofBytes _ _)
  · exact exec_w8_of_idle hb _ v
  · rw [toNat_ofBytes, toNat_hiByte]
  · exact exec_r8_of_portRead (loByte_ofBytes _ _)

/-- Settles O36: the fold's own test of its index. -/
theorem foldOutsideBufferFaults : Obligations.FoldOutsideBufferFaults := by
  intro s hb hr hi
  rw [engineTurn, if_pos hb, engineStep, if_pos hr, foldStep, if_neg (not_lt.2 hi)]

end Sys2Proof.Machine

/-! PROOFS of 20_memory.md: host transactions and engine steps interleaved (R52), the ROM window, the key window and the
addresses that ignore writes (R54 to R56), and what an accepted operation leaves, from the key alone (R68). -/

namespace Sys2Proof.Machine

/-! ### The host's turn -/

/-- A run of one step is the step. -/
theorem runSteps_one (s : State) : runSteps 1 s = step s := by
  simp only [runSteps]
  cases step s <;> rfl

/-- The turn of a host transaction runs what it decodes to (R52, R81). -/
theorem step_host {s : State} {w : TxnWord} {rest : List Input} (h : s.inputs = .host w :: rest) :
    step s = exec (decodeTransaction w) (s.beginPort rest) := by
  simp only [step, h]

theorem step_engine {s : State} {rest : List Input} (h : s.inputs = .engine :: rest) :
    step s = engineTurn (s.takeTurn rest) := by
  simp only [step, h]

/-- Settles O7: the state with the turn taken is where the port turn begins. -/
theorem stepRunsHostTransaction : Obligations.StepRunsHostTransaction :=
  fun _ _ _ h => step_host h

/-! ### Windows and addresses -/

/-- A write to what ignores writes changes nothing: an idle PHE by R101's table, a busy one by R221. -/
theorem exec_w8_ignored {s : State} {a : HostAddr} {v : Byte}
    (h : s.writeTarget v (targetOf s.params.keyCap a) = s) : exec (.w8 a v) s = .next s := by
  cases hb : s.busy
  · rw [exec_w8_of_idle hb, h]
  · exact congrArg Host.Outcome.next (State.portWrite_busy hb a v)

/-- Settles O19: the window's addresses reach the table, which ignores writes. -/
theorem romWindow : Obligations.RomWindow := by
  intro s a i v d ha
  refine ⟨exec_r8_of_portRead (s.portRead_table i.isLt ha), exec_w8_ignored ?_⟩
  rw [targetOf_table _ i.isLt ha]
  rfl

/-- Settles O16: the window's addresses reach KEYBUF, whose bytes are written one at a time. -/
theorem keyWindowReadsAndWrites : Obligations.KeyWindowReadsAndWrites := by
  intro s a i v d hi ha
  have hkey : targetOf s.params.keyCap a = .key i := targetOf_key _ hi ha
  refine ⟨exec_r8_of_portRead ?_, fun hb => ?_, fun hb => ⟨s.setKeyByte i v, ?_, rfl, ?_, fun j hj => ?_⟩⟩
  · rw [State.portRead, hkey]
    rfl
  · exact congrArg Host.Outcome.next (State.portWrite_busy hb a v)
  · rw [exec_w8_of_idle hb, hkey]
    rfl
  · exact s.keyByte_setKeyByte_same i v
  · exact s.keyByte_setKeyByte_other v hj

/-- Settles O18: what each address reaches, and R100's and R101's entries for it. -/
theorem reservedAndReadOnlyAddresses : Obligations.ReservedAndReadOnlyAddresses := by
  intro s a v d
  refine ⟨fun h => ?_, fun h => exec_w8_ignored ?_, fun h => ?_⟩
  · have hres := targetOf_reserved s.params.keyCap h
    refine ⟨exec_r8_of_portRead ?_, exec_w8_ignored ?_⟩
    · rw [State.portRead, hres]
      rfl
    · rw [hres]
      rfl
  · obtain rfl | rfl | rfl : a = 0x00001#17 ∨ a = 0x00004#17 ∨ a = 0x00005#17 :=
      h.imp BitVec.eq_of_toNat_eq (Or.imp BitVec.eq_of_toNat_eq BitVec.eq_of_toNat_eq)
    · rw [targetOf_status]
      rfl
    · rw [targetOf_digestHi]
      rfl
    · rw [targetOf_digestLo]
      rfl
  · obtain rfl : a = 0x00000#17 := BitVec.eq_of_toNat_eq h
    exact exec_r8_of_portRead rfl

/-! ### Interleaving -/

/-- While BUSY = 1 a host transaction drives rdata, if that, and what it drives does not depend on the turns to come
(R100, R221). -/
theorem exec_transaction_of_busy {s : State} (hb : s.busy = true) (w : TxnWord) :
    ∃ r : Option Byte, ∀ inputs : List Input,
      exec (decodeTransaction w) (s.beginPort inputs) = .next { s with inputs := inputs, rdata := r } := by
  by_cases hw : TxnWord.we w = 0#1
  · refine ⟨some (s.portRead (TxnWord.addr w)), fun inputs => ?_⟩
    rw [decodeTransaction, if_pos hw]
    rfl
  · refine ⟨none, fun inputs => ?_⟩
    rw [decodeTransaction, if_neg hw]
    exact congrArg Host.Outcome.next (State.portWrite_busy (s := s.beginPort inputs) hb _ _)

/-- An engine turn taken from a list of turns does what the engine does alone (R110). -/
theorem step_engine_of_alone {s v : State} (h : step { s with inputs := [] } = .next v) (rest : List Input)
    (r : Option Byte) :
    step { s with inputs := .engine :: rest, rdata := r } = .next { v with inputs := rest, rdata := r } := by
  rw [step_of_no_turns rfl] at h
  rw [step_engine rfl]
  exact (engineTurn_inputs_rdata { s with inputs := [] } rest r).trans (congrArg (mapNext _) h)

/-- The engine alone lists no turns. -/
theorem step_alone_inputs {s v : State} (h : step { s with inputs := [] } = .next v) : v.inputs = [] := by
  rw [step_of_no_turns rfl] at h
  exact congrArg State.inputs (engineTurn_frame h)

/-- A schedule of host and engine turns, the last of them the engine's, reaches what the engine alone reaches: an engine
turn is the engine's own step, and a host turn on a busy PHE leaves all but rdata. By induction on the schedule. -/
theorem runSteps_interleaved {u : State} (sched : List Input) (hs : ∀ x ∈ sched, x = .engine ∨ ∃ w, x = .host w)
    (s : State) (r : Option Byte)
    (hbusy : ∀ k ≤ sched.count .engine, ∃ v : State, runSteps k { s with inputs := [] } = .next v ∧ v.busy = true)
    (hu : runSteps (sched.count .engine + 1) { s with inputs := [] } = .next u) :
    ∃ r' : Option Byte, runSteps (sched.length + 1) { s with inputs := sched ++ [.engine], rdata := r } =
      .next { u with rdata := r' } := by
  induction sched generalizing s r with
  | nil =>
    have hstep : step { s with inputs := [] } = .next u := by
      rw [← runSteps_one]
      exact hu
    refine ⟨r, ?_⟩
    rw [List.nil_append, List.length_nil, runSteps_succ (step_engine_of_alone hstep [] r), ← step_alone_inputs hstep]
    rfl
  | cons x sched ih =>
    obtain ⟨hx, hsched⟩ := List.forall_mem_cons.1 hs
    rcases hx with rfl | ⟨w, rfl⟩
    · rw [List.count_cons_self] at hbusy hu
      obtain ⟨v, hv, -⟩ := hbusy 1 (by omega)
      rw [runSteps_one] at hv
      have halone : { v with inputs := [] } = v := by rw [← step_alone_inputs hv]
      rw [runSteps_succ hv, ← halone] at hu
      obtain ⟨r', hr'⟩ := ih hsched v r (fun k hk => by
        obtain ⟨v', hv'⟩ := hbusy (k + 1) (by omega)
        rw [runSteps_succ hv, ← halone] at hv'
        exact ⟨v', hv'⟩) hu
      refine ⟨r', ?_⟩
      rw [List.cons_append, List.length_cons, runSteps_succ (step_engine_of_alone hv _ r), hr']
    · rw [List.count_cons_of_ne (by simp)] at hbusy hu
      obtain ⟨v, hv, hb⟩ := hbusy 0 (Nat.zero_le _)
      obtain rfl : { s with inputs := [] } = v := Host.Outcome.next.inj hv
      obtain ⟨r₁, hr₁⟩ := exec_transaction_of_busy (s := s) hb w
      have hstep : step { s with inputs := .host w :: (sched ++ [.engine]), rdata := r } =
          .next { s with inputs := sched ++ [.engine], rdata := r₁ } :=
        (step_host rfl).trans (hr₁ _)
      rw [List.cons_append, List.length_cons, runSteps_succ hstep]
      exact ih hsched s r₁ hbusy hu

/-- Settles O47: the interleaved run, from the rdata that the state holds. -/
theorem hostCannotDisturbOperation : Obligations.HostCannotDisturbOperation :=
  fun s _ sched hs hbusy hu => runSteps_interleaved sched hs s s.rdata hbusy hu

/-- R230: a cycle that begins idle has no engine step. -/
theorem engineOfCycle_idle (o : Host.Outcome State Fault Refusal) : engineOfCycle false o = o := by
  cases o <;> rfl

/-- The engine's turn while BUSY = 1 is its step (R110). -/
theorem engineTurn_busy {s : State} (hb : s.busy = true) : engineTurn s = engineStep s := if_pos hb

/-- Settles O58, by what is presented in the cycle and whether it begins busy: the transaction of a busy cycle leaves
the engine's turn what it was. -/
theorem cycleIsInterleaving : Obligations.CycleIsInterleaving := by
  intro s rst req hi
  have hstart : { s with rdata := none } = s.beginPort [] := by rw [State.beginPort, ← hi]
  show _ = runSteps _ (s.beginPort (turnsOfCycle s.busy rst req))
  cases rst
  case true =>
    show .next (s.resetCycle req) = runSteps 1 (s.beginPort [.reset req])
    rw [runSteps_one, step_reset rfl, State.resetCycle, hi]
    rfl
  cases req with
  | none =>
    show engineOfCycle s.busy (.next { s with rdata := none }) = _
    rw [hstart]
    cases hb : s.busy
    · rfl
    · show engineStep (s.beginPort []) = runSteps 1 (s.beginPort [.engine])
      rw [runSteps_one, step_engine rfl]
      exact (engineTurn_busy (s := s.beginPort []) hb).symm
  | some w =>
    show engineOfCycle s.busy (exec (decodeTransaction w) { s with rdata := none }) = _
    rw [hstart]
    cases hb : s.busy
    · show _ = runSteps 1 (s.beginPort [.host w])
      rw [engineOfCycle_idle, runSteps_one, step_host rfl]
      rfl
    · show _ = runSteps 2 (s.beginPort [.host w, .engine])
      obtain ⟨r, hr⟩ := exec_transaction_of_busy hb w
      have hstep : step (s.beginPort [.host w, .engine]) = .next { s with inputs := [.engine], rdata := r } :=
        (step_host rfl).trans (hr [.engine])
      rw [runSteps_succ hstep, runSteps_one, step_engine rfl, hr]
      exact (engineTurn_busy (s := { s with inputs := [], rdata := r }) hb).symm

/-! ### What an accepted operation leaves -/

/-- The machine takes `n` steps from `t` to `w`, busy before each of them (R116). -/
def State.RunsTo (t : State) (n : Nat) (w : State) : Prop :=
  (∀ k : Nat, k < n → ∃ v : State, runSteps k t = .next v ∧ v.busy = true) ∧ runSteps n t = .next w

/-- H after the operation of a variant: the last pass's fold (R131, R165). -/
def State.finalHash (s : State) : Variant → Byte
  | .rfc3074 => pearsonFold s.rom (loByte s.keylen) s.key.reverse
  | .original => pearsonFold s.rom 0x00#8 s.key
  | .wikipedia => pearsonFold s.rom 0x00#8 s.key
  | .hash16 => pearsonFold s.rom 0x00#8 (perturbFirst s.key)

/-- What an accepted command for a variant leaves of the idle PHE `s` when its operation is complete (R131, R165). -/
def State.resultOf (s : State) (v : Variant) : State :=
  { s with
    digest := s.digestOf v
    h := s.finalHash v
    h1 := if v = .hash16 then pearsonFold s.rom 0x00#8 s.key else s.h1
    idx := if v = .rfc3074 then 0xFFFF#16 else s.keylen
    rem := 0#16, opl := v, pass := false
    busy := false, done := true, err := false, errcode := 0b000#3 }

namespace State.RunsTo

variable {t w u : State} {m n : Nat}

theorem trans (h : t.RunsTo m w) (h' : w.RunsTo n u) : t.RunsTo (m + n) u := by
  obtain ⟨hbusy, hw⟩ := h
  obtain ⟨hbusy', hu⟩ := h'
  refine ⟨fun k hk => ?_, (runSteps_add hw n).trans hu⟩
  by_cases hkm : k < m
  · exact hbusy k hkm
  · obtain ⟨j, rfl⟩ := Nat.exists_eq_add_of_le (not_lt.1 hkm)
    rw [runSteps_add hw]
    exact hbusy' j (by omega)

/-- R110, R114: an end of pass is one step more. -/
theorem endOfPass (h : t.RunsTo m w) (hi : w.inputs = []) (hb : w.busy = true) (hr : w.rem = 0#16) :
    t.RunsTo (m + 1) w.endOfPass := by
  refine h.trans ⟨fun k hk => ⟨w, ?_, hb⟩, ?_⟩
  · rw [Nat.lt_one_iff.1 hk, runSteps_zero]
  · rw [runSteps_one, step_of_no_turns hi, engineTurn_endOfPass hb hr]

theorem completesIn (h : t.RunsTo n u) (hb : u.busy = false) (hd : u.done = true) (he : u.err = false)
    (hc : u.errcode = 0b000#3) : t.CompletesIn n u :=
  ⟨h.1, h.2, hb, hd, he, hc⟩

end State.RunsTo

/-- What the first pass of a forward operation reads is the key (R112). -/
theorem State.bytesForward_key {t : State} (hp : t.pass = false) : t.bytesForward 0 t.keylen.toNat = t.key := by
  rw [bytesForward_eq t 0 _ (.inl (by simp [hp])) (by have := t.keylen.isLt; omega), key, List.range_eq_range']

/-- What HASH16's second pass reads is the key with its first byte perturbed (R112, R161). -/
theorem State.bytesForward_perturbFirst {t : State} (ho : t.opl = .hash16) (hp : t.pass = true) :
    t.bytesForward 0 t.keylen.toNat = perturbFirst t.key := by
  have hlt := t.keylen.isLt
  rw [key, List.range_eq_range']
  cases hn : t.keylen.toNat with
  | zero => rfl
  | succ n =>
    rw [bytesForward, bytesForward_eq t 1 n (.inr Nat.one_pos) (by omega), List.range'_succ, List.map_cons,
      perturbFirst, byteAt, if_pos ⟨ho, hp, rfl⟩]

/-- R114: the end of HASH16's second pass. -/
theorem State.endOfPass_complete16 {w : State} (ho : w.opl = .hash16) (hp : w.pass = true) :
    w.endOfPass = w.complete16 := by
  rw [endOfPass, if_neg (by simp [hp]), if_pos ho]

/-- The running state `t` after all folds of a pass, H and IDX as they leave them (R111, R114). -/
def State.afterPass (t : State) (h : Byte) (idx : Half) : State := { t with h := h, idx := idx, rem := 0#16 }

/-- R116: a forward pass over the key, from its start to the end of the pass. -/
theorem State.runsTo_endOfPass_forward {t : State} {bytes : List Byte} (hi : t.inputs = []) (hb : t.busy = true)
    (ho : t.opl ≠ .rfc3074) (hidx : t.idx = 0#16) (hrem : t.rem = t.keylen)
    (hcap : t.keylen.toNat ≤ t.params.keyCap) (hbytes : t.bytesForward 0 t.keylen.toNat = bytes) :
    t.RunsTo (t.keylen.toNat + 1) (t.afterPass (pearsonFold t.rom t.h bytes) t.keylen).endOfPass := by
  have hlt := t.keylen.isLt
  have hzero : t.idx.toNat = 0 := by rw [hidx]; rfl
  obtain ⟨hbusy, hrun⟩ := run_folds_forward t.keylen.toNat t hi hb ho (by rw [hrem]) (by omega) (by omega)
  rw [hzero, Nat.zero_add, BitVec.ofNat_toNat, BitVec.setWidth_eq, hbytes] at hrun
  exact RunsTo.endOfPass ⟨fun k hk => hbusy k hk.le, hrun⟩ hi hb rfl

/-- R116: RFC3074's backward pass over the key, from its end to the end of the pass. -/
theorem State.runsTo_endOfPass_backward {t : State} (hi : t.inputs = []) (hb : t.busy = true) (ho : t.opl = .rfc3074)
    (hidx : t.idx = t.keylen - 1#16) (hrem : t.rem = t.keylen) (hcap : t.keylen.toNat ≤ t.params.keyCap) :
    t.RunsTo (t.keylen.toNat + 1) (t.afterPass (pearsonFold t.rom t.h t.key.reverse) 0xFFFF#16).endOfPass := by
  obtain ⟨hbusy, hrun⟩ := run_folds_backward t.keylen.toNat t hi hb ho (by rw [hrem])
    (by rw [hidx, BitVec.ofNat_toNat, BitVec.setWidth_eq]) hcap
  rw [t.bytesBackward_eq ho _ t.keylen.isLt.le] at hrun
  exact RunsTo.endOfPass ⟨fun k hk => hbusy k hk.le, hrun⟩ hi hb rfl

/-- Where HASH16's second pass begins (R164). -/
def State.secondPass (s : State) : State :=
  { s.clearStatus.start .hash16 with h1 := pearsonFold s.rom 0x00#8 s.key, pass := true }

/-- R161, R164: HASH16's second pass begins one end of pass after its first. -/
theorem State.start_runsTo_secondPass {s : State} (hi : s.inputs = []) (hcap : s.keylen.toNat ≤ s.params.keyCap) :
    (s.clearStatus.start .hash16).RunsTo (s.keylen.toNat + 1) s.secondPass :=
  runsTo_endOfPass_forward (t := s.clearStatus.start .hash16) hi rfl (by simp) rfl rfl hcap (bytesForward_key rfl)

/-- R165: HASH16's second pass ends in its result. -/
theorem State.secondPass_runsTo_resultOf {s : State} (hi : s.inputs = []) (hcap : s.keylen.toNat ≤ s.params.keyCap) :
    s.secondPass.RunsTo (s.keylen.toNat + 1) (s.resultOf .hash16) := by
  have hpass := runsTo_endOfPass_forward (t := s.secondPass) hi rfl (ho := nofun) rfl rfl hcap
    (bytesForward_perturbFirst rfl rfl)
  rw [endOfPass_complete16 rfl rfl] at hpass
  exact hpass

/-- R104: every variant's preconditions bound the key by KEYBUF. -/
theorem State.keylen_le_of_accepts {s : State} {v : Variant} (h : s.accepts v) : s.keylen.toNat ≤ s.params.keyCap := by
  cases v
  case wikipedia => exact h
  all_goals exact h.1

/-- R116, R131, R165: an accepted operation of any variant, with no turn of the host's in between, completes after its
number of engine steps and leaves the result of its key. -/
theorem State.start_completesIn {s : State} (hi : s.inputs = []) {v : Variant} (ha : s.accepts v) :
    (s.clearStatus.start v).CompletesIn (s.engineSteps v) (s.resultOf v) := by
  have hcap := keylen_le_of_accepts ha
  refine RunsTo.completesIn ?_ rfl rfl rfl rfl
  cases v
  case rfc3074 =>
    exact runsTo_endOfPass_backward (t := s.clearStatus.start .rfc3074) hi rfl rfl rfl rfl hcap
  case original =>
    exact runsTo_endOfPass_forward (t := s.clearStatus.start .original) hi rfl (by simp) rfl rfl hcap
      (bytesForward_key rfl)
  case wikipedia =>
    exact runsTo_endOfPass_forward (t := s.clearStatus.start .wikipedia) hi rfl (by simp) rfl rfl hcap
      (bytesForward_key rfl)
  case hash16 =>
    have hsteps : s.engineSteps .hash16 = (s.keylen.toNat + 1) + (s.keylen.toNat + 1) := by
      rw [engineSteps]
      omega
    rw [hsteps]
    exact (start_runsTo_secondPass hi hcap).trans (secondPass_runsTo_resultOf hi hcap)

/-- R68: what the digest is a function of. -/
theorem State.digestOf_congr {s t : State} (hrom : s.rom = t.rom) (hlen : s.keylen = t.keylen)
    (hkey : ∀ i : Nat, i < s.keylen.toNat → s.keyByte i = t.keyByte i) (v : Variant) :
    s.digestOf v = t.digestOf v := by
  have hk : s.key = t.key := by
    rw [key, key, ← hlen]
    exact List.map_congr_left fun i hi => hkey i (List.mem_range.1 hi)
  cases v <;> simp only [digestOf, hrom, hlen, hk]

/-- Settles O46: each state's operation completes with the digest of its key, and both the digest and the number of
steps look at what the states agree on. -/
theorem digestDependsOnKeyAlone : Obligations.DigestDependsOnKeyAlone := by
  intro v s₁ s₂ hi₁ hi₂ hb₁ hb₂ hrom hlen hkey ha₁ ha₂
  have hsteps : s₁.engineSteps v = s₂.engineSteps v := by
    cases v <;> simp only [State.engineSteps, hlen]
  refine ⟨s₁.engineSteps v, _, _, s₁.resultOf v, s₂.resultOf v, exec_command_of_accepts hb₁ ha₁,
    exec_command_of_accepts hb₂ ha₂, State.start_completesIn hi₁ ha₁, ?_, State.digestOf_congr hrom hlen hkey v⟩
  rw [hsteps]
  exact State.start_completesIn hi₂ ha₂

end Sys2Proof.Machine

/-! PROOFS of 30_encoding.md: the two round trips between instructions and their encodings (R80 to R86), the command
byte as a write to CMD (R90), and the transaction words of host programs (R90, R91). -/

namespace Sys2Proof

/-! ### Transaction words -/

/-- R80: a transaction word as a number. -/
theorem TxnWord.toNat_eq_fields (w : TxnWord) :
    w.toNat = (TxnWord.we w).toNat * 2 ^ 25 + (TxnWord.addr w).toNat * 2 ^ 8 + (TxnWord.data w).toNat := by
  have hw := w.isLt
  simp only [we, addr, data, BitVec.extractLsb'_toNat, Nat.shiftRight_eq_div_pow]
  omega

theorem decodeTransaction_of_read {w : TxnWord} (h : TxnWord.we w = 0#1) :
    decodeTransaction w = .r8 (TxnWord.addr w) (TxnWord.data w) := if_pos h

theorem decodeTransaction_of_write {w : TxnWord} (h : TxnWord.we w = 1#1) :
    decodeTransaction w = .w8 (TxnWord.addr w) (TxnWord.data w) := if_neg (by simp [h])

theorem wf_decodeTransaction (w : TxnWord) : (decodeTransaction w).wf = true := by
  rcases BitVec.eq_zero_or_eq_one (TxnWord.we w) with h | h
  · rw [decodeTransaction_of_read h, Instr.wf]
  · rw [decodeTransaction_of_write h, Instr.wf]

theorem encode_decodeTransaction (w : TxnWord) : encode (decodeTransaction w) = .transaction w := by
  rcases BitVec.eq_zero_or_eq_one (TxnWord.we w) with h | h
  · rw [decodeTransaction_of_read h, encode, ← h, TxnWord.make_fields]
  · rw [decodeTransaction_of_write h, encode, ← h, TxnWord.make_fields]

/-! ### Command bytes -/

/-- A command byte is the byte of its fields (R83). -/
theorem Byte.command_fields : ∀ c : Byte, Byte.command (Byte.start c) (Byte.rsvd c) (Byte.variant c) = c := by decide

/-- R83, R84: START is 0 in the lower half of the opcode map. -/
theorem Byte.start_of_le : ∀ {c : Byte}, c.toNat ≤ 0x7F → Byte.start c = 0#1 := by decide

/-- The instructions of the five ILLEGAL rows with these operands (R86). -/
def illegalRows (rsvd : BitVec 5) (variant : BitVec 2) : List Instr :=
  [.illegalC0 rsvd variant, .illegalA0 rsvd variant, .illegal90 rsvd variant, .illegal88 rsvd variant,
    .illegal84 rsvd variant]

theorem encode_of_mem_illegalRows {r : BitVec 5} {v : BitVec 2} {i : Instr} (h : i ∈ illegalRows r v) :
    encode i = .command (Byte.command 1#1 r v) := by
  simp only [illegalRows, List.mem_cons, List.not_mem_nil, or_false] at h
  rcases h with rfl | rfl | rfl | rfl | rfl <;> rfl

theorem decodeIllegal_mem_illegalRows (r : BitVec 5) (v : BitVec 2) : decodeIllegal r v ∈ illegalRows r v := by
  rw [decodeIllegal]
  split_ifs <;> simp [illegalRows]

/-- R86: where RSVD is not 0, as in every illegal command, it has the fixed bits of the row it selects. -/
theorem wf_decodeIllegal :
    ∀ {r : BitVec 5}, r ≠ 0#5 → ∀ v : BitVec 2, (decodeIllegal r v).wf = true := by decide

/-- R86: the fixed bits of a row are not all 0, and no other row has them. -/
theorem decodeIllegal_of_wf : ∀ {r : BitVec 5} {v : BitVec 2}, ∀ i ∈ illegalRows r v, i.wf = true →
    r ≠ 0#5 ∧ decodeIllegal r v = i := by decide

theorem decodeCommand_nop {c : Byte} (hs : Byte.start c = 0#1) :
    decodeCommand c = .phNop (Byte.rsvd c) (Byte.variant c) := if_pos hs

theorem decodeCommand_illegal {c : Byte} (hs : Byte.start c = 1#1) (hr : Byte.rsvd c ≠ 0#5) :
    decodeCommand c = decodeIllegal (Byte.rsvd c) (Byte.variant c) := by
  rw [decodeCommand, if_neg (by simp [hs]), if_pos hr]

/-- A well-formed instruction of an ILLEGAL row is what its command byte decodes to. -/
theorem decode_encode_of_mem_illegalRows {r : BitVec 5} {v : BitVec 2} {i : Instr} (h : i ∈ illegalRows r v)
    (hwf : i.wf = true) : decode (encode i) = i := by
  obtain ⟨hr, hrow⟩ := decodeIllegal_of_wf i h hwf
  rw [encode_of_mem_illegalRows h, decode, decodeCommand_illegal (Byte.start_command _ _ _)
    (by rwa [Byte.rsvd_command]), Byte.rsvd_command, Byte.variant_command, hrow]

end Sys2Proof

namespace Sys2Proof.Machine

/-- Settles O5, by the rows of the opcode table: the fields of a transaction word and of a command byte are the
operands, and the fixed bits of an ILLEGAL row select it. -/
theorem decodeEncodeRoundTrip : Obligations.DecodeEncodeRoundTrip := by
  intro i hwf
  cases i with
  | r8 a d => exact decodeTransaction_read a d
  | w8 a d => exact decodeTransaction_write a d
  | phRfc3074 => rfl
  | phOrig => rfl
  | phWiki => rfl
  | phH16 => rfl
  | phNop r v =>
    rw [encode, decode, decodeCommand_nop (Byte.start_command _ _ _), Byte.rsvd_command, Byte.variant_command]
  | illegalC0 r v | illegalA0 r v | illegal90 r v | illegal88 r v | illegal84 r v =>
    exact decode_encode_of_mem_illegalRows (r := r) (v := v) (by simp [illegalRows]) hwf

/-! ### The operation of a command byte -/

theorem Variant.bits_ofBits : ∀ b : BitVec 2, (Variant.ofBits b).bits = b := by decide

/-- R84: a command's byte has START = 1, RSVD = 0 and its variant's bits. -/
theorem encode_variant_command (v : Variant) : encode v.command = .command (Byte.command 1#1 0#5 v.bits) := by
  cases v <;> rfl

theorem wf_variant_command (v : Variant) : v.command.wf = true := by cases v <;> rfl

theorem exec_variant_command (v : Variant) (s : State) : exec v.command s = .next (s.runVariant v) := by
  cases v <;> rfl

theorem decodeCommand_legal {c : Byte} (hs : Byte.start c = 1#1) (hr : Byte.rsvd c = 0#5) :
    decodeCommand c = (Variant.ofBits (Byte.variant c)).command := by
  rw [decodeCommand, if_neg (by simp [hs]), if_neg (not_not_intro hr), Variant.ofBits]
  split_ifs <;> rfl

/-- Everything a command byte can be (R83): a no-op, an illegal command, or the command of a variant. -/
theorem decodeCommand_cases (c : Byte) :
    (Byte.start c = 0#1 ∧ decodeCommand c = .phNop (Byte.rsvd c) (Byte.variant c)) ∨
    (Byte.start c = 1#1 ∧ Byte.rsvd c ≠ 0#5 ∧ decodeCommand c = decodeIllegal (Byte.rsvd c) (Byte.variant c)) ∨
    (Byte.start c = 1#1 ∧ Byte.rsvd c = 0#5 ∧ decodeCommand c = (Variant.ofBits (Byte.variant c)).command) := by
  rcases BitVec.eq_zero_or_eq_one (Byte.start c) with hs | hs
  · exact .inl ⟨hs, decodeCommand_nop hs⟩
  by_cases hr : Byte.rsvd c = 0#5
  · exact .inr (.inr ⟨hs, hr, decodeCommand_legal hs hr⟩)
  · exact .inr (.inl ⟨hs, hr, decodeCommand_illegal hs hr⟩)

theorem wf_decodeCommand (c : Byte) : (decodeCommand c).wf = true := by
  rcases decodeCommand_cases c with ⟨-, h⟩ | ⟨-, hr, h⟩ | ⟨-, -, h⟩ <;> rw [h]
  · rfl
  · exact wf_decodeIllegal hr _
  · exact wf_variant_command _

theorem encode_decodeCommand (c : Byte) : encode (decodeCommand c) = .command c := by
  have hfields := c.command_fields
  rcases decodeCommand_cases c with ⟨hs, h⟩ | ⟨hs, -, h⟩ | ⟨hs, hr, h⟩ <;> rw [h]
  · rw [encode, ← hs, hfields]
  · rw [encode_of_mem_illegalRows (decodeIllegal_mem_illegalRows _ _), ← hs, hfields]
  · rw [encode_variant_command, Variant.bits_ofBits, ← hs, ← hr, hfields]

/-- Settles O2, by the word's own fields. -/
theorem transactionWordDecoding : Obligations.TransactionWordDecoding :=
  fun w => ⟨TxnWord.we w, TxnWord.addr w, TxnWord.data w, w.toNat_eq_fields,
    fun h => ⟨decodeTransaction_of_read h, fun _ => rfl⟩, decodeTransaction_of_write⟩

/-- Settles O6, at each level by the kinds of instruction that it decodes to. -/
theorem encodeDecodeRoundTrip : Obligations.EncodeDecodeRoundTrip
  | .transaction w => ⟨wf_decodeTransaction w, encode_decodeTransaction w⟩
  | .command c => ⟨wf_decodeCommand c, encode_decodeCommand c⟩

/-! ### A command byte as a write to CMD -/

theorem exec_of_mem_illegalRows {r : BitVec 5} {v : BitVec 2} {i : Instr} (h : i ∈ illegalRows r v) (s : State) :
    exec i s = .next s.runIllegal := by
  simp only [illegalRows, List.mem_cons, List.not_mem_nil, or_false] at h
  rcases h with rfl | rfl | rfl | rfl | rfl <;> rfl

/-- R101: a byte with START = 1 written to CMD goes to the acceptance procedure, if idle. -/
theorem exec_w8_cmd_of_start {c : Byte} (hs : Byte.start c = 1#1) (s : State) :
    exec (.w8 0x00000#17 c) s = .next (s.whenIdle fun s => s.accept c) :=
  congrArg (fun f => Host.Outcome.next (s.whenIdle f)) (funext fun _ => if_pos hs)

/-- Settles O22, by what the byte decodes to: the no-op writes nothing, and the other bytes go to acceptance, whose
first test is RSVD. -/
theorem commandWriteRunsCommand : Obligations.CommandWriteRunsCommand := by
  intro s c
  rcases decodeCommand_cases c with ⟨hs, h⟩ | ⟨hs, hr, h⟩ | ⟨hs, hr, h⟩ <;> rw [h]
  · exact exec_w8_ignored (if_neg (by simp [hs]))
  · rw [exec_w8_cmd_of_start hs, exec_of_mem_illegalRows (decodeIllegal_mem_illegalRows _ _)]
    simp only [State.accept, if_pos hr, State.runIllegal]
  · rw [exec_w8_cmd_of_start hs, exec_variant_command]
    simp only [State.accept, if_neg (not_not_intro hr), State.runVariant]

/-- R90: the transaction that carries an encoding runs the instruction that the encoding decodes to. -/
theorem exec_decodeTransaction_toTransaction (e : Encoded) (s : State) :
    exec (decodeTransaction e.toTransaction) s = exec (decode e) s := by
  cases e with
  | transaction w => rfl
  | command c => rw [decodeTransaction_command, commandWriteRunsCommand, decode]

/-- Settles O8, by the round trip over the instruction. -/
theorem stepRunsEncodedInstruction : Obligations.StepRunsEncodedInstruction := by
  intro s i rest hwf hi
  rw [step_host hi, encodeTransaction, exec_decodeTransaction_toTransaction, decodeEncodeRoundTrip i hwf]
  rfl

/-- An opcode-table word that decodes is an encoding, carried by the transaction of `fetchWord` (R82, R90). -/
theorem decodeTableWord_eq_some {nbits w : Nat} {i : Instr} (h : decodeTableWord nbits w = some i) :
    ∃ e : Encoded, fetchWord nbits w = e.toTransaction ∧ decode e = i := by
  rw [decodeTableWord, decodeBits, encodedOfBits] at h
  split_ifs at h with hshort hbyte hw hw <;> injection h with h
  · exact ⟨_, if_pos hbyte.le, h⟩
  · exact ⟨.transaction (BitVec.ofNat 26 w), if_neg (by omega), h⟩

/-- Settles O9, by the encoding that the word is. -/
theorem fetchedWordRuns : Obligations.FetchedWordRuns := by
  intro s nbits w i h
  obtain ⟨e, hfetch, rfl⟩ := decodeTableWord_eq_some h
  rw [step_host (s := s.withFetchWord nbits w) rfl, hfetch, exec_decodeTransaction_toTransaction]
  rfl

/-- Settles O30: PH.NOP by its meaning, its bytes by the command they decode to. -/
theorem nopChangesNothing : Obligations.NopChangesNothing := by
  refine fun s => ⟨fun _ _ => rfl, fun c hc => ?_⟩
  rw [commandWriteRunsCommand, decodeCommand_nop (Byte.start_of_le hc)]
  rfl

/-! ### LDKEY -/

/-- An idle PHE takes the write of a host program's line (R89, R101). -/
theorem step_writeWord {s : State} {a : Symbol} {v : Byte} {rest : List Input} (hb : s.busy = false)
    (hi : s.inputs = .host (writeWord a v) :: rest) :
    step s = .next ((s.beginPort rest).writeTarget v (targetOf s.params.keyCap a.addr)) := by
  rw [step_host hi, writeWord, encodeTransaction, encode, Encoded.toTransaction, decodeTransaction_write]
  exact exec_w8_of_idle (s := s.beginPort rest) hb _ v

/-- R89: `KEYBUF+i` is the address of key byte `i`. -/
theorem targetOf_keybuf {k i : Nat} (hi : i < k) (hk : k ≤ 65535) :
    targetOf k (Symbol.keybuf (BitVec.ofNat 16 i)).addr = .key i := by
  refine targetOf_key k hi ?_
  simp only [Symbol.addr, BitVec.toNat_add, BitVec.toNat_setWidth, BitVec.toNat_ofNat]
  omega

/-- KEYBUF with the bytes of a key stored from index `i` on. -/
def State.storeKey (s : State) : Nat → List Byte → State
  | _, [] => s
  | i, b :: bs => (s.setKeyByte i b).storeKey (i + 1) bs

namespace State

theorem storeKey_frame (s : State) (i : Nat) (bs : List Byte) :
    s.storeKey i bs = { s with keybuf := (s.storeKey i bs).keybuf } := by
  induction bs generalizing s i with
  | nil => rfl
  | cons b bs ih =>
    rw [storeKey, ih]
    rfl

theorem storeKey_keylen (s : State) (i : Nat) (bs : List Byte) : (s.storeKey i bs).keylen = s.keylen := by
  rw [storeKey_frame]

theorem keyByte_storeKey_outside (s : State) {i j : Nat} (bs : List Byte) (h : j < i ∨ i + bs.length ≤ j) :
    (s.storeKey i bs).keyByte j = s.keyByte j := by
  induction bs generalizing s i with
  | nil => rfl
  | cons b bs ih =>
    rw [List.length_cons] at h
    rw [storeKey, ih _ (by omega), keyByte_setKeyByte_other _ _ (by omega)]

theorem map_keyByte_storeKey (s : State) (i : Nat) (bs : List Byte) :
    (List.range' i bs.length).map (s.storeKey i bs).keyByte = bs := by
  induction bs generalizing s i with
  | nil => rfl
  | cons b bs ih =>
    rw [List.length_cons, List.range'_succ, List.map_cons, storeKey, ih,
      keyByte_storeKey_outside _ _ (.inl i.lt_succ_self), keyByte_setKeyByte_same]

end State

/-- R91: the write of one key byte. -/
theorem step_keyWrite {s : State} {i : Nat} {b : Byte} {rest : List Input} (hb : s.busy = false)
    (hi : i < s.params.keyCap) (hcap : s.params.keyCap ≤ 65535) :
    step (s.beginPort (.host (writeWord (.keybuf (BitVec.ofNat 16 i)) b) :: rest)) =
      .next ((s.setKeyByte i b).beginPort rest) := by
  rw [step_writeWord (s := s.beginPort _) hb rfl, State.beginPort_params, targetOf_keybuf hi hcap]
  rfl

/-- R91: the writes of key bytes, by induction on the bytes. -/
theorem runSteps_keyWrites {s : State} {i : Nat} {bs : List Byte} (hb : s.busy = false)
    (hlen : i + bs.length ≤ s.params.keyCap) (hcap : s.params.keyCap ≤ 65535) :
    runSteps bs.length (s.beginPort (hostTurns (keyWrites i bs))) = .next ((s.storeKey i bs).beginPort []) := by
  induction bs generalizing s i with
  | nil => rfl
  | cons b bs ih =>
    rw [List.length_cons] at hlen ⊢
    have hrest := ih (s := s.setKeyByte i b) hb (i := i + 1) (by rw [State.setKeyByte_params]; omega) hcap
    exact (runSteps_succ (step_keyWrite hb (by omega) hcap) _).trans hrest

/-- R40: a write of each byte of a value leaves KEYLEN as the value. -/
theorem State.setKeylenLo_setKeylenHi (s : State) (k : Half) :
    (s.setKeylenHi (hiByte k)).setKeylenLo (loByte k) = { s with keylen := k } := by
  rw [setKeylenLo, setKeylenHi_keylen, hiByte_ofBytes, ofBytes_bytes]
  rfl

/-- R91: the writes of KEYLEN. -/
theorem runSteps_keylenWrites {s : State} {k : Half} {rest : List Input} (hb : s.busy = false)
    (hi : s.inputs = .host (writeWord .keylenHi (hiByte k)) :: .host (writeWord .keylenLo (loByte k)) :: rest) :
    runSteps 2 s = .next (State.beginPort { s with keylen := k } rest) := by
  have hhi : step s = .next ((s.setKeylenHi (hiByte k)).beginPort (.host (writeWord .keylenLo (loByte k)) :: rest)) :=
    step_writeWord hb hi
  have hlo : step ((s.setKeylenHi (hiByte k)).beginPort (.host (writeWord .keylenLo (loByte k)) :: rest)) =
      .next (((s.setKeylenHi (hiByte k)).setKeylenLo (loByte k)).beginPort rest) :=
    step_writeWord (s := (s.setKeylenHi (hiByte k)).beginPort _) hb rfl
  rw [runSteps_succ hhi, runSteps_one, hlo, State.setKeylenLo_setKeylenHi]

/-- Settles O57: the writes of KEYLEN, then those of the key, which is KEYBUF below KEYLEN (R15). -/
theorem ldkeyLoadsKey : Obligations.LdkeyLoadsKey := by
  intro s key hb hparams hwf hi
  obtain ⟨-, hcap⟩ := hparams
  have hlen : key.length ≤ s.params.keyCap := of_decide_eq_true hwf
  have hn : (BitVec.ofNat 16 key.length).toNat = key.length := Nat.mod_eq_of_lt (by omega)
  have hrun := (runSteps_add (runSteps_keylenWrites hb hi) key.length).trans
    (runSteps_keyWrites (s := { s with keylen := BitVec.ofNat 16 key.length }) hb (by simpa using hlen) hcap)
  rw [Nat.add_comm] at hrun
  refine ⟨_, hrun, ?_, fun i hlt => ?_, ?_⟩
  · rw [State.key, State.beginPort_keylen, State.storeKey_keylen, hn, List.range_eq_range']
    exact State.map_keyByte_storeKey _ 0 key
  · exact State.keyByte_storeKey_outside _ key (.inr (by omega))
  · rw [State.storeKey_frame]
    rfl

/-! ### The tables -/

/-- Settles O1: the no-ops by their START, the commands and the illegal rows by looking up their bytes. -/
theorem commandByteOpcodeMap : Obligations.CommandByteOpcodeMap := by
  refine ⟨rfl, rfl, rfl, rfl, fun _ hc => decodeCommand_nop (Byte.start_of_le hc), ?_, ?_, ?_, ?_, ?_⟩
  all_goals decide

/-- Settles O3, by decoding the nine words. -/
theorem sampleWordsDecode : Obligations.SampleWordsDecode := by
  unfold Obligations.SampleWordsDecode
  decide

/-- Settles O4, by encoding the five commands. -/
theorem pseudoInstructionWords : Obligations.PseudoInstructionWords := by
  unfold Obligations.PseudoInstructionWords
  decide

end Sys2Proof.Machine

/-! PROOFS of 40_fold_and_loop.md: host reads and writes (R100, R101), the acceptance procedure and its outcomes (R102 to
R107), and the engine's steps (R110 to R115). -/

namespace Sys2Proof.Machine

/-! ### Host reads -/

namespace State

/-- R55: a read in the key window returns the key byte. -/
theorem portRead_key (s : State) {a : HostAddr} {i : Nat} (hi : i < s.params.keyCap) (h : a.toNat = 0x10000 + i) :
    s.portRead a = s.keyByte i := by
  rw [portRead, targetOf_key _ hi h, readTarget]

/-- R56: a read of a reserved address returns 0x00. -/
theorem portRead_reserved (s : State) {a : HostAddr} (h : (0x00006 ≤ a.toNat ∧ a.toNat ≤ 0x000FF) ∨
    (0x00200 ≤ a.toNat ∧ a.toNat ≤ 0x0FFFF) ∨ 0x10000 + s.params.keyCap ≤ a.toNat) : s.portRead a = 0x00#8 := by
  rw [portRead, targetOf_reserved _ h, readTarget]

end State

/-- Settles O14: the byte of each range of the map, R100's table. -/
theorem hostReadReturnsMappedByte : Obligations.HostReadReturnsMappedByte := by
  intro s a d
  have hreg {n : HostAddr} (h : a.toNat = n.toNat) : s.portRead a = s.portRead n :=
    congrArg s.portRead (BitVec.eq_of_toNat_eq h)
  refine ⟨s.portRead a, exec_r8_of_portRead rfl, fun h => ?_, fun h => ?_, fun h => ?_, fun h => ?_, fun h => ?_,
    fun h => ?_, fun i h => s.portRead_table i.isLt h, fun i hi h => s.portRead_key hi h,
    fun h h' => s.portRead_reserved (.inl ⟨h, h'⟩), fun h h' => s.portRead_reserved (.inr (.inl ⟨h, h'⟩)),
    fun h => s.portRead_reserved (.inr (.inr h))⟩
  · exact hreg (n := 0x00000#17) h
  · exact hreg (n := 0x00001#17) h
  · rw [hreg (n := 0x00002#17) h]
    exact toNat_hiByte s.keylen
  · rw [hreg (n := 0x00003#17) h]
    exact toNat_loByte s.keylen
  · rw [hreg (n := 0x00004#17) h]
    exact toNat_hiByte s.digest
  · rw [hreg (n := 0x00005#17) h]
    exact toNat_loByte s.digest

/-! ### Frames -/

namespace State

/-- Only a write to CMD reaches acceptance: any other writes KEYLEN and KEYBUF alone (R101). -/
theorem portWrite_frame_of_ne_cmd {s : State} {a : HostAddr} (ha : a ≠ 0x00000#17) (v : Byte) :
    s.portWrite a v = { s with keylen := (s.portWrite a v).keylen, keybuf := (s.portWrite a v).keybuf } := by
  rcases portWrite_cases s a v with h | ⟨-, hcmd, -⟩ | ⟨-, -, h⟩ | ⟨-, -, h⟩ | ⟨-, i, -, -, h⟩
  case inl => rw [h]
  case inr.inl => exact absurd hcmd ha
  all_goals
    rw [h]
    rfl

/-- A host write leaves the model's own fields (logs 2, 3, 4). -/
theorem portWrite_frame_model (s : State) (a : HostAddr) (v : Byte) :
    (s.portWrite a v).keyEpoch = s.keyEpoch ∧ (s.portWrite a v).inputs = s.inputs ∧
    (s.portWrite a v).rdata = s.rdata := by
  rcases portWrite_cases s a v with h | ⟨-, -, -, h⟩ | ⟨-, -, h⟩ | ⟨-, -, h⟩ | ⟨-, i, -, -, h⟩ <;> rw [h]
  case inr.inl => rw [accept_frame]; exact ⟨rfl, rfl, rfl⟩
  all_goals exact ⟨rfl, rfl, rfl⟩

end State

/-- Settles O23: a key byte that changes is the one the address reaches, in an idle PHE; the rest by the frames of the
port's writes. -/
theorem hostWriteFrame : Obligations.HostWriteFrame := by
  intro s t a v h
  obtain rfl : s.portWrite a v = t := Host.Outcome.next.inj h
  have hkey {j : Nat} (hne : (s.portWrite a v).keyByte j ≠ s.keyByte j) :
      s.busy = false ∧ targetOf s.params.keyCap a = .key j := by
    obtain ⟨hb, hj, ha, -⟩ := State.portWrite_keyByte hne
    exact ⟨hb, targetOf_key _ hj ha⟩
  obtain ⟨hrom, hparams, hdigest, hh1⟩ := s.portWrite_frame a v
  obtain ⟨hepoch, hinputs, hrdata⟩ := s.portWrite_frame_model a v
  refine ⟨fun i hi j hj => ?_, fun hno j => ?_, hrom, hparams, hdigest, hh1, hepoch, hinputs, hrdata,
    fun ha => State.portWrite_frame_of_ne_cmd ha v, fun h2 h3 => ?_⟩
  · by_contra hne
    obtain ⟨-, hj'⟩ := hkey hne
    exact hj (Target.key.inj (hj'.symm.trans hi))
  · by_contra hne
    obtain ⟨hb, hj⟩ := hkey hne
    rcases hno with hbusy | hno
    · exact nomatch hb.symm.trans hbusy
    · exact hno j hj
  · by_contra hne
    obtain ⟨-, ha | ha⟩ := State.portWrite_keylen hne
    · exact h2 ha
    · exact h3 ha

/-- What a command can leave of `s` (R85, R102, R182, R221): `s`, an error completion, or an operation started. -/
def State.CommandLeaves (s t : State) : Prop :=
  t = s ∨ (∃ code, t = s.clearStatus.raise code) ∨ ∃ v, t = s.clearStatus.start v

namespace State

theorem commandLeaves_runVariant (s : State) (v : Variant) : s.CommandLeaves (s.runVariant v) := by
  cases hb : s.busy
  · rw [runVariant, whenIdle_idle hb]
    rcases s.clearStatus.acceptVariant_cases v with ⟨-, h⟩ | ⟨-, h⟩ | ⟨-, -, -, -, h⟩ | ⟨-, -, -, h⟩
    · exact .inr (.inr ⟨v, h⟩)
    all_goals exact .inr (.inl ⟨_, h⟩)
  · exact .inl (whenIdle_busy hb _)

theorem commandLeaves_runIllegal (s : State) : s.CommandLeaves s.runIllegal := by
  cases hb : s.busy
  · exact .inr (.inl ⟨_, whenIdle_idle hb _⟩)
  · exact .inl (whenIdle_busy hb _)

end State

/-- Everything an instruction other than R8 and W8 can do. -/
theorem exec_commandLeaves {i : Instr} {s t : State} (hr : ∀ a d, i ≠ .r8 a d) (hw : ∀ a v, i ≠ .w8 a v)
    (h : exec i s = .next t) : s.CommandLeaves t := by
  cases i with
  | r8 a d => exact absurd rfl (hr a d)
  | w8 a v => exact absurd rfl (hw a v)
  | phRfc3074 | phOrig | phWiki | phH16 => exact Host.Outcome.next.inj h ▸ s.commandLeaves_runVariant _
  | phNop r v => exact .inl (Host.Outcome.next.inj h).symm
  | illegalC0 r v | illegalA0 r v | illegal90 r v | illegal88 r v | illegal84 r v =>
    exact Host.Outcome.next.inj h ▸ s.commandLeaves_runIllegal

/-- Settles O24: a read drives rdata, and each end of a command writes the registers of acceptance alone. -/
theorem readAndCommandFrame : Obligations.ReadAndCommandFrame := by
  intro s t i hw h
  by_cases hr : ∃ a d, i = .r8 a d
  · obtain ⟨a, d, rfl⟩ := hr
    obtain rfl : s.driveRead (s.portRead a) = t := Host.Outcome.next.inj h
    exact ⟨fun _ => rfl, fun _ => rfl, fun hne => absurd rfl (hne a d)⟩
  · have hr' : ∀ a d, i ≠ .r8 a d := fun a d he => hr ⟨a, d, he⟩
    rcases exec_commandLeaves hr' hw h with rfl | ⟨code, rfl⟩ | ⟨v, rfl⟩ <;>
      exact ⟨fun _ => rfl, fun he => absurd he hr, fun _ => rfl⟩

/-! ### Acceptance -/

/-- R101, R102: while idle, a byte with START = 1 written to CMD is accepted. -/
theorem exec_w8_cmd_accept {s : State} {c : Byte} (hb : s.busy = false) (hs : c.getLsbD 7 = true) :
    exec (.w8 0x00000#17 c) s = .next (s.accept c) := by
  rw [exec_w8_cmd_of_start ((getLsbD_seven_iff_start c).1 hs), State.whenIdle_idle hb]

/-- Settles O32: acceptance fails or starts, and the two ends differ in BUSY. -/
theorem acceptanceOutcomes : Obligations.AcceptanceOutcomes := by
  intro s c hb hs
  refine ⟨s.accept c, exec_w8_cmd_accept hb hs, ?_⟩
  intro runs failed
  have hexcl : ¬(runs ∧ failed) := fun ⟨⟨hrun, _⟩, hidle, _⟩ => nomatch hrun.symm.trans hidle
  refine ⟨?_, hexcl⟩
  rcases s.accept_fails_or_starts c with ⟨code, he⟩ | ⟨-, -, he⟩
  · right
    simp only [failed, he]
    exact ⟨hb, rfl, rfl, code.bits_ne_zero, rfl⟩
  · left
    simp only [runs, he]
    exact ⟨rfl, rfl, rfl⟩

theorem Variant.ofBits_eq_rfc3074_iff : ∀ b : BitVec 2, Variant.ofBits b = .rfc3074 ↔ b = 0b00#2 := by decide

theorem Variant.ofBits_eq_original_iff : ∀ b : BitVec 2, Variant.ofBits b = .original ↔ b = 0b01#2 := by decide

theorem Variant.ofBits_eq_hash16_iff : ∀ b : BitVec 2, Variant.ofBits b = .hash16 ↔ b = 0b11#2 := by decide

/-- Settles O26: the model's tests in their order, with the variants named by the bits of VARIANT. -/
theorem acceptanceProcedure : Obligations.AcceptanceProcedure := by
  intro s c hb hs
  rw [exec_w8_cmd_accept hb hs, State.accept, State.acceptVariant]
  simp only [Variant.ofBits_eq_rfc3074_iff, Variant.ofBits_eq_original_iff, Variant.ofBits_eq_hash16_iff]
  rfl

namespace State

variable {s : State} {v : Variant}

/-- R104: no variant takes a KEYLEN above KEY_CAP. -/
theorem acceptVariant_keylenOverCap (h : s.keylen.toNat > s.params.keyCap) :
    s.acceptVariant v = s.raise .keylenOverCap := if_pos h

/-- R105: under REJECT, RFC3074 takes no key longer than 255 bytes. -/
theorem acceptVariant_keyTooLong (hcap : s.keylen.toNat ≤ s.params.keyCap) (h : s.keylen.toNat > 255)
    (hp : s.params.rfcLong = .reject) : s.acceptVariant .rfc3074 = s.raise .keyTooLong := by
  rw [acceptVariant, if_neg (not_lt.2 hcap), if_pos ⟨rfl, h, hp⟩]

/-- R105: ORIGINAL and HASH16 do not take the empty key. -/
theorem acceptVariant_keyEmpty (hv : v = .original ∨ v = .hash16) (h : s.keylen.toNat = 0) :
    s.acceptVariant v = s.raise .keyEmpty := by
  rw [acceptVariant, if_neg (by omega), if_neg (by omega), if_pos ⟨hv, h⟩]

end State

/-- R103, R183: a command whose acceptance fails completes, while idle, with the code and nothing else changed. -/
theorem exec_command_fails {s : State} {v : Variant} {code : ErrCode} (hb : s.busy = false)
    (h : s.clearStatus.acceptVariant v = s.clearStatus.raise code) :
    exec v.command s = .next { s with done := true, err := true, errcode := code.bits } := by
  rw [exec_variant_command, State.runVariant, State.whenIdle_idle hb, h]
  rfl

/-- R103, R106: an operation that starts runs with no error reported. -/
theorem exec_command_runs {s : State} {v : Variant} (hb : s.busy = false) (ha : s.accepts v) :
    ∃ t : State, exec v.command s = .next t ∧ t.busy = true ∧ t.err = false :=
  ⟨_, exec_command_of_accepts hb ha, rfl, rfl⟩

/-- Settles O27: KEY_CAP is the first precondition of every variant. -/
theorem keylenOverCapFails : Obligations.KeylenOverCapFails := by
  intro s hb h
  have hfails (v : Variant) :=
    exec_command_fails hb (State.acceptVariant_keylenOverCap (s := s.clearStatus) (v := v) h)
  exact ⟨hfails .rfc3074, hfails .original, hfails .wikipedia, hfails .hash16⟩

/-- Settles O28: each failing precondition by its code, the others by the start of the operation. -/
theorem variantPreconditions : Obligations.VariantPreconditions := by
  intro s hb hcap
  refine ⟨fun h hp => ?_, fun _ hp => ?_, fun h => ⟨?_, ?_⟩, ?_, fun h => ?_⟩
  · exact exec_command_fails hb (State.acceptVariant_keyTooLong (s := s.clearStatus) hcap h hp)
  · exact exec_command_runs (v := .rfc3074) hb ⟨hcap, .inr hp⟩
  · exact exec_command_fails hb (State.acceptVariant_keyEmpty (s := s.clearStatus) (.inl rfl) h)
  · exact exec_command_fails hb (State.acceptVariant_keyEmpty (s := s.clearStatus) (.inr rfl) h)
  · exact exec_command_runs (v := .wikipedia) hb hcap
  · exact exec_command_runs (v := .rfc3074) hb ⟨hcap, .inl (by omega)⟩

/-- R106: RFC3074's seed is the length modulo 256. -/
theorem loByte_eq_ofNat_mod (x : Half) : loByte x = BitVec.ofNat 8 (x.toNat % 256) :=
  BitVec.eq_of_toNat_eq (by rw [toNat_loByte, BitVec.toNat_ofNat]; omega)

/-- R106, R113: one less, modulo 2^16. -/
theorem sub_one_eq_ofNat_mod (x : Half) : x - 1#16 = BitVec.ofNat 16 ((x.toNat + 65535) % 65536) := by bv_omega

/-- Settles O25: the preconditions give `start`, whose registers R106 lists. -/
theorem commandsStartOperations : Obligations.CommandsStartOperations := by
  intro s hb hcap
  refine ⟨fun h => ?_, fun h => ?_, ?_, fun h => ?_⟩
  · rw [← loByte_eq_ofNat_mod, ← sub_one_eq_ofNat_mod]
    exact exec_command_of_accepts (v := .rfc3074) hb ⟨hcap, h⟩
  · exact exec_command_of_accepts (v := .original) hb ⟨hcap, h⟩
  · exact exec_command_of_accepts (v := .wikipedia) hb hcap
  · exact exec_command_of_accepts (v := .hash16) hb ⟨hcap, h⟩

/-! ### The engine -/

/-- Settles O10: both turns are the engine's, and it looks at BUSY, then at REM. -/
theorem engineStepsWhileBusy : Obligations.EngineStepsWhileBusy := by
  intro s t hturn
  obtain ⟨hstep, hbusy, hrem⟩ : step s = engineTurn t ∧ t.busy = s.busy ∧ t.rem = s.rem := by
    rcases hturn with ⟨hi, rfl⟩ | ⟨rest, hi, rfl⟩
    · exact ⟨step_of_no_turns hi, rfl, rfl⟩
    · exact ⟨step_engine hi, rfl, rfl⟩
  rw [hstep, ← hbusy, ← hrem]
  refine ⟨fun hb => ?_, fun hb hr => ?_, fun hb hr => engineTurn_endOfPass hb hr⟩
  · rw [engineTurn, hb]
    rfl
  · rw [engineTurn_busy hb, engineStep, if_pos hr]

theorem toNat_perturb (k0 : Byte) : (perturb k0).toNat = (k0.toNat + 1) % 255 := by
  rw [perturb, BitVec.toNat_ofNat]
  omega

/-- Settles O35: `b` is the byte that R112 reads, so that the step is `fold`. -/
theorem foldStepEffect : Obligations.FoldStepEffect := by
  intro s b hb hr hi hfirst hother
  have hbyte : s.byteAt s.idx = b := by
    rw [State.byteAt]
    split
    case isTrue hc => exact BitVec.eq_of_toNat_eq ((toNat_perturb _).trans (hfirst hc).symm)
    case isFalse hc => exact (hother hc).symm
  rw [engineTurn_fold hb hr hi, State.fold, hbyte]
  rfl

namespace State

theorem endOfPass_interpass {s : State} (ho : s.opl = .hash16) (hp : s.pass = false) : s.endOfPass = s.interpass :=
  if_pos ⟨ho, hp⟩

theorem endOfPass_complete8 {s : State} (ho : s.opl ≠ .hash16) : s.endOfPass = s.complete8 := by
  rw [endOfPass, if_neg (fun h => ho h.1), if_neg ho]

end State

/-- Settles O37: OPL and PASS select the end, and DIGEST takes the bytes of H1 and H as numbers. -/
theorem endOfPassEffects : Obligations.EndOfPassEffects := by
  intro s hb hr
  rw [engineTurn_endOfPass hb hr]
  refine ⟨fun ho hp => ?_, fun ho hp => ⟨ofBytes s.h1 s.h, toNat_ofBytes _ _, ?_⟩,
    fun ho => ⟨s.h.setWidth 16, BitVec.toNat_setWidth_of_le (by decide), ?_⟩⟩
  · rw [State.endOfPass_interpass ho hp]
    rfl
  · rw [State.endOfPass_complete16 ho hp]
    rfl
  · rw [State.endOfPass_complete8 ho]
    rfl

/-- R115: a lookup in a permutation table at `x XOR b` is a bijection in `x`, the XOR and the table being injective. -/
theorem lookup_xor_bijective {t : PermTable} (h : PermTable.wf t) (b : Byte) :
    Function.Bijective (fun x : Byte => t[(x ^^^ b).toNat]'(x ^^^ b).isLt) := by
  refine Finite.injective_iff_bijective.1 fun x y hxy => ?_
  have hxor : x ^^^ b = y ^^^ b :=
    BitVec.eq_of_toNat_eq (PermTable.wf_inj h (x ^^^ b).isLt (y ^^^ b).isLt hxy)
  exact (BitVec.xor_left_inj b).1 hxor

/-- Settles O39: both folds are one lookup, and the byte that the engine reads does not depend on H. -/
theorem foldIsBijection : Obligations.FoldIsBijection :=
  ⟨fun _ b h => lookup_xor_bijective h b, fun s h => lookup_xor_bijective h.rom_perm (s.byteAt s.idx)⟩

end Sys2Proof.Machine

/-! PROOFS of 41_hash8.md: the results of the operations with an 8-bit digest, RFC3074 (R130 to R134), ORIGINAL (R140,
R141) and WIKIPEDIA (R150, R151). -/

namespace Sys2Proof.Machine

/-! ### From the command to the result -/

/-- R106, R116: an accepted command runs its operation to its end, with no turn of the host's in between. -/
theorem exec_command_completes {s : State} {v : Variant} {n : Nat} (hi : s.inputs = []) (hb : s.busy = false)
    (ha : s.accepts v) (hn : s.engineSteps v = n) :
    exec v.command s = .next (s.clearStatus.start v) ∧ (s.clearStatus.start v).CompletesIn n (s.resultOf v) :=
  ⟨exec_command_of_accepts hb ha, hn ▸ State.start_completesIn hi ha⟩

namespace State

variable {s : State}

/-- R131: an operation with an 8-bit digest leaves of an idle PHE all but DIGEST, the loop registers and STATUS. -/
theorem resultOf_frame (hb : s.busy = false) {v : Variant} (hv : v ≠ .hash16) :
    s.resultOf v =
      { s with digest := s.digestOf v, h := s.finalHash v, idx := if v = .rfc3074 then 0xFFFF#16 else s.keylen,
               rem := 0#16, opl := v, pass := false, done := true, err := false, errcode := 0#3 } := by
  rw [resultOf, if_neg hv, hb]

/-- R131: an 8-bit digest is the last pass's H, in the low byte of DIGEST. -/
theorem toNat_digestOf {v : Variant} (hv : v ≠ .hash16) : (s.digestOf v).toNat = (s.finalHash v).toNat := by
  cases v
  case hash16 => exact absurd rfl hv
  all_goals exact BitVec.toNat_setWidth_of_le (by decide)

/-- R132, R151: with no byte to fold, the digest is the seed, and the seed of the empty key is 0. -/
theorem digestOf_of_keylen_zero (h : s.keylen = 0#16) (v : Variant) : s.digestOf v = 0#16 := by
  have hkey : s.key = [] := by rw [key, h]; rfl
  cases v <;> rw [digestOf, hkey]
  case rfc3074 => rw [h]; rfl
  case hash16 => exact (by decide : ofBytes 0x00#8 0x00#8 = 0#16)
  all_goals rfl

end State

/-- R151: on the empty key an accepted operation with an 8-bit digest is one end of pass, and leaves DIGEST = 0. -/
theorem exec_command_completes_of_keylen_zero {s : State} {v : Variant} (hi : s.inputs = []) (hb : s.busy = false)
    (ha : s.accepts v) (hv : v ≠ .hash16) (h : s.keylen = 0#16) :
    ∃ t u : State, exec v.command s = .next t ∧ t.CompletesIn 1 u ∧ u.digest = 0#16 := by
  have hn : s.engineSteps v = 1 := by
    cases v
    case hash16 => exact absurd rfl hv
    all_goals rw [State.engineSteps, h]; rfl
  obtain ⟨hexec, hrun⟩ := exec_command_completes hi hb ha hn
  exact ⟨_, _, hexec, hrun, State.digestOf_of_keylen_zero h v⟩

/-- On the empty key both commands that accept it leave DIGEST = 0 (R151). -/
theorem emptyKey_completes {s : State} (hi : s.inputs = []) (hb : s.busy = false) (h : s.keylen = 0#16) :
    (∃ t u : State, exec .phWiki s = .next t ∧ t.CompletesIn 1 u ∧ u.digest = 0#16) ∧
    (∃ t u : State, exec .phRfc3074 s = .next t ∧ t.CompletesIn 1 u ∧ u.digest = 0#16) := by
  have hzero : s.keylen.toNat = 0 := by rw [h]; rfl
  exact ⟨exec_command_completes_of_keylen_zero (v := .wikipedia) hi hb (by simp [State.accepts, hzero]) nofun h,
    exec_command_completes_of_keylen_zero (v := .rfc3074) hi hb (by simp [State.accepts, hzero]) nofun h⟩

/-! ### The obligations -/

/-- Settles O40: the operation's result, whose digest is the backward fold from KEYLEN's low byte. -/
theorem rfc3074Digest : Obligations.Rfc3074Digest := by
  intro s hi hb hcap hlong
  obtain ⟨hexec, hrun⟩ := exec_command_completes (v := .rfc3074) hi hb ⟨hcap, hlong⟩ rfl
  refine ⟨_, _, hexec, hrun, ?_, State.resultOf_frame hb nofun⟩
  rw [← loByte_eq_ofNat_mod]
  exact State.toNat_digestOf nofun

/-- Settles O41: the operation's result, whose digest is the forward fold from 0; the empty key's is its seed. -/
theorem wikipediaDigest : Obligations.WikipediaDigest := by
  refine ⟨fun s hi hb hcap => ?_, fun s hi hb h => emptyKey_completes hi hb h⟩
  obtain ⟨hexec, hrun⟩ := exec_command_completes (v := .wikipedia) hi hb hcap rfl
  exact ⟨_, _, hexec, hrun, State.toNat_digestOf nofun, State.resultOf_frame hb nofun⟩

/-- Settles O42: both digests are the forward fold from 0, and KEY_EMPTY is ORIGINAL's answer to the empty key. -/
theorem originalAgreesWithWikipedia : Obligations.OriginalAgreesWithWikipedia := by
  intro s hi hb
  refine ⟨fun hpos hcap => ?_, fun h => ⟨?_, (emptyKey_completes hi hb h).1⟩⟩
  · obtain ⟨hexec, hrun⟩ := exec_command_completes (v := .original) hi hb ⟨hcap, hpos⟩ rfl
    obtain ⟨hexec', hrun'⟩ := exec_command_completes (v := .wikipedia) hi hb hcap rfl
    have hdigest : s.digestOf .original = s.digestOf .wikipedia := rfl
    exact ⟨_, _, _, _, hexec, hrun, hexec', hrun', hdigest⟩
  · exact exec_command_fails (v := .original) hb
      (State.acceptVariant_keyEmpty (s := s.clearStatus) (.inl rfl) (congrArg BitVec.toNat h))

/-- Settles O45: KEY_CAP is at least 256 (R8), so that 255 meets RFC3074's preconditions and 256 fails only the one on
long keys. -/
theorem rfc3074LengthBoundary : Obligations.Rfc3074LengthBoundary := by
  intro s hwf hreject hi hb
  refine ⟨fun h => ?_, fun h => ?_⟩
  · have hlen : s.keylen.toNat = 255 := congrArg BitVec.toNat h
    have ha : s.accepts .rfc3074 := ⟨by omega, .inl hlen.le⟩
    obtain ⟨hexec, hrun⟩ := exec_command_completes hi hb ha (congrArg (· + 1) hlen)
    exact ⟨_, _, hexec, hrun⟩
  · have hlen : s.keylen.toNat = 256 := congrArg BitVec.toNat h
    have hgt : s.keylen.toNat > 255 := by omega
    have hlong : s.clearStatus.acceptVariant .rfc3074 = s.clearStatus.raise .keyTooLong :=
      State.acceptVariant_keyTooLong (s := s.clearStatus) (hlen.trans_le hwf.1) hgt hreject
    refine ⟨_, exec_command_fails (v := .rfc3074) hb hlong, rfl, rfl, ?_⟩
    simp only [State.statusByte, hb, ErrCode.bits]
    decide

end Sys2Proof.Machine

/-! PROOFS of 42_hash16.md: the substituted first byte (R162), HASH16's result (R160, R161, R167) and its two halves on
a key of one byte (R168). -/

namespace Sys2Proof.Machine

namespace State

variable {s : State}

theorem length_key (s : State) : s.key.length = s.keylen.toNat := by
  rw [key, List.length_map, List.length_range]

theorem key_of_keylen_one (h : s.keylen = 1#16) : s.key = [s.keyByte 0] := by
  rw [key, h]
  rfl

/-- R165: HASH16 leaves of an idle PHE all but DIGEST, H1, the loop registers and STATUS. -/
theorem resultOf_frame_hash16 (hb : s.busy = false) :
    s.resultOf .hash16 =
      { s with digest := s.digestOf .hash16, h := s.finalHash .hash16, h1 := pearsonFold s.rom 0x00#8 s.key,
               idx := s.keylen, rem := 0#16, opl := .hash16, pass := false, done := true, err := false,
               errcode := 0#3 } := by
  rw [resultOf, if_pos rfl, if_neg nofun, hb]

/-- R165, R167: HASH16's digest is its two passes' results, the first pass's in the high byte. -/
theorem toNat_digestOf_hash16 {k0 : Byte} {ks : List Byte} (hk : s.key = k0 :: ks) :
    (s.digestOf .hash16).toNat =
      (pearsonFold s.rom 0x00#8 (k0 :: ks)).toNat * 256 + (pearsonFold s.rom 0x00#8 (perturb k0 :: ks)).toNat := by
  rw [digestOf, hk, perturbFirst, toNat_ofBytes]

end State

/-- R115, R168: over a permutation table, folding one byte into a fixed H is injective in the byte. -/
theorem pearsonFold_singleton_injective {t : PermTable} (h : PermTable.wf t) (seed : Byte) :
    Function.Injective (fun b : Byte => pearsonFold t seed [b]) := by
  intro b c hbc
  have hxor : seed ^^^ b = seed ^^^ c :=
    BitVec.eq_of_toNat_eq (PermTable.wf_inj h (seed ^^^ b).isLt (seed ^^^ c).isLt hbc)
  exact (BitVec.xor_right_inj seed).1 hxor

/-! ### The obligations -/

/-- Settles O43: the operation's result, whose second half folds the key with `perturb k0` in front; a key that has a
first byte is not empty, which is all that HASH16 asks beyond KEY_CAP. -/
theorem hash16Digest : Obligations.Hash16Digest := by
  intro s k0 ks hi hb hcap hk
  have hpos : 1 ≤ s.keylen.toNat := by
    rw [← s.length_key, hk, List.length_cons]
    exact Nat.le_add_left 1 ks.length
  obtain ⟨hexec, hrun⟩ := exec_command_completes (v := .hash16) hi hb ⟨hcap, hpos⟩ rfl
  exact ⟨_, _, perturb k0, hexec, hrun, toNat_perturb k0, State.toNat_digestOf_hash16 hk,
    State.resultOf_frame_hash16 hb⟩

/-- Settles O44: the halves are the folds of the key's byte and of another one, and over a permutation table these
differ. -/
theorem hash16HalvesDiffer : Obligations.Hash16HalvesDiffer := by
  intro s hinv hi hb hlen
  have hone : s.keylen.toNat = 1 := congrArg BitVec.toNat hlen
  have hcap : s.keylen.toNat ≤ s.params.keyCap := by
    have := hinv.params_wf.1
    omega
  obtain ⟨t, u, x, hexec, hrun, hx, hdigest, -⟩ := hash16Digest s _ [] hi hb hcap (State.key_of_keylen_one hlen)
  rw [hone] at hrun
  refine ⟨t, u, hexec, hrun, fun heq => ?_⟩
  have hhalves : (pearsonFold s.rom 0x00#8 [s.keyByte 0]).toNat = (pearsonFold s.rom 0x00#8 [x]).toNat := by omega
  have hbyte : s.keyByte 0 = x := pearsonFold_singleton_injective hinv.rom_perm _ (BitVec.eq_of_toNat_eq hhalves)
  rw [← hbyte] at hx
  omega

/-- Settles O38: reduction modulo 255 leaves `k0 + 1` alone up to 254 and answers nothing above 254. -/
theorem perturbedByteValues : Obligations.PerturbedByteValues := by
  refine ⟨fun k0 hk => ?_, by decide, by decide, fun k0 h => ?_, by decide⟩
  · rw [toNat_perturb]
    exact Nat.mod_eq_of_lt (by omega)
  · have hlt : (k0.toNat + 1) % 255 < 255 := Nat.mod_lt _ (by decide)
    rw [← toNat_perturb, h] at hlt
    exact absurd hlt (by decide)

end Sys2Proof.Machine

/-! PROOFS of 60_exceptions.md: no instruction stops the machine (R180), the illegal commands (R182), the error
completion (R183), and which command can raise which code (R184). -/

namespace Sys2Proof.Machine

/-- Settles O34: every arm of `exec` answers a next state. -/
theorem noInstructionStops : Obligations.NoInstructionStops := exec_next

/-- Settles O31: STATUS by the code, the other flags being fixed. -/
theorem errorCompletion : Obligations.ErrorCompletion := by
  intro s code hb
  refine ⟨rfl, ?_, rfl, rfl, rfl, rfl⟩
  rw [State.statusByte, State.raise_errcode, State.raise_err, State.raise_done, State.raise_busy, hb]
  cases code <;> decide

/-! ### Illegal commands -/

/-- R102: RSVD is looked at before KEYLEN. -/
theorem State.accept_illegal {c : Byte} (h : Byte.rsvd c ≠ 0#5) (s : State) :
    s.accept c = s.clearStatus.raise .illegalCommand := if_pos h

theorem State.accept_legal {c : Byte} (h : Byte.rsvd c = 0#5) (s : State) :
    s.accept c = s.clearStatus.acceptVariant (Variant.ofBits (Byte.variant c)) := if_neg (not_not_intro h)

/-- R84, R86: the illegal commands are the bytes from 0x84. -/
theorem illegal_iff_ge : ∀ {c : Byte}, Byte.start c = 1#1 ∧ Byte.rsvd c ≠ 0#5 ↔ 0x84 ≤ c.toNat := by decide

/-- Settles O29: the rows by their shared operation, the bytes by the first test of acceptance. -/
theorem illegalCommandReportsCodeFour : Obligations.IllegalCommandReportsCodeFour := by
  intro s hb t
  have hrow {r : BitVec 5} {v : BitVec 2} {i : Instr} (h : i ∈ illegalRows r v) : exec i s = .next t := by
    rw [exec_of_mem_illegalRows h, State.runIllegal, State.whenIdle_idle hb]
    rfl
  refine ⟨fun r v => ?_, fun c hc => ?_, (nopChangesNothing s).2⟩
  · refine ⟨?_, ?_, ?_, ?_, ?_⟩ <;> exact hrow (r := r) (v := v) (by simp [illegalRows])
  · obtain ⟨hs, hr⟩ := illegal_iff_ge.2 hc
    rw [exec_w8_cmd_accept hb ((getLsbD_seven_iff_start c).2 hs), State.accept_illegal hr]
    rfl

/-! ### Which command raises which code -/

/-- R184, by code: a byte with START = 1 can fail with the code under the policy. -/
def ErrCode.RaisedBy (policy : RfcLongPolicy) (c : Byte) : ErrCode → Prop
  | .keyEmpty => Byte.rsvd c = 0#5 ∧
      (Variant.ofBits (Byte.variant c) = .original ∨ Variant.ofBits (Byte.variant c) = .hash16)
  | .keyTooLong => Byte.rsvd c = 0#5 ∧ Variant.ofBits (Byte.variant c) = .rfc3074 ∧ policy = .reject
  | .keylenOverCap => Byte.rsvd c = 0#5
  | .illegalCommand => Byte.rsvd c ≠ 0#5

/-- An acceptance that reports an error reports a code of the byte (R104, R105). -/
theorem State.accept_code {s : State} {c : Byte} (h : (s.accept c).err = true) :
    ∃ code : ErrCode, code.RaisedBy s.params.rfcLong c ∧ (s.accept c).errcode = code.bits := by
  by_cases hr : Byte.rsvd c = 0#5
  · rw [accept_legal hr] at h ⊢
    rcases s.clearStatus.acceptVariant_cases (Variant.ofBits (Byte.variant c)) with
      ⟨-, he⟩ | ⟨-, he⟩ | ⟨-, hv, -, hp, he⟩ | ⟨-, hv, -, he⟩ <;> rw [he] at h ⊢
    · exact nomatch h
    · exact ⟨.keylenOverCap, hr, rfl⟩
    · exact ⟨.keyTooLong, ⟨hr, hv, hp⟩, rfl⟩
    · exact ⟨.keyEmpty, ⟨hr, hv⟩, rfl⟩
  · exact ⟨.illegalCommand, hr, by rw [accept_illegal hr]; rfl⟩

/-- An idle PHE with no error reported, for a policy and a KEYLEN; KEY_CAP is the test instance's 1024 (R9). -/
def idleAt (policy : RfcLongPolicy) (keylen : Half) : State :=
  { State.afterReset Config.identityTable { Config.testParams with rfcLong := policy } 0 [] with keylen := keylen }

/-- A KEYLEN at which acceptance fails with the code: the empty key, one byte more than RFC3074 takes, or one byte more
than KEYBUF holds; an illegal command fails at any. -/
def ErrCode.failingKeylen : ErrCode → Half
  | .keyEmpty => 0#16
  | .keyTooLong => 256#16
  | .keylenOverCap => 1025#16
  | .illegalCommand => 0#16

theorem accept_idleAt_failingKeylen {policy : RfcLongPolicy} {c : Byte} {code : ErrCode}
    (h : code.RaisedBy policy c) :
    (idleAt policy code.failingKeylen).accept c = (idleAt policy code.failingKeylen).clearStatus.raise code := by
  cases code with
  | keyEmpty =>
    obtain ⟨hr, hv⟩ := h
    rw [State.accept_legal hr]
    exact State.acceptVariant_keyEmpty hv rfl
  | keyTooLong =>
    obtain ⟨hr, hv, hp⟩ := h
    rw [State.accept_legal hr, hv]
    exact State.acceptVariant_keyTooLong (show 256 ≤ 1024 by decide) (show 256 > 255 by decide) hp
  | keylenOverCap =>
    rw [State.accept_legal h]
    exact State.acceptVariant_keylenOverCap (show 1025 > 1024 by decide)
  | illegalCommand => exact State.accept_illegal h _

/-- R184, by code: only a byte with START = 1 is accepted, and each of its codes has a KEYLEN that raises it. -/
theorem canRaise_iff {policy : RfcLongPolicy} {c : Byte} {k : BitVec 3} :
    CanRaise policy c k ↔ Byte.start c = 1#1 ∧ ∃ code : ErrCode, code.RaisedBy policy c ∧ k = code.bits := by
  constructor
  · rintro ⟨s, t, -, rfl, hb, herr, -, hexec, ht, rfl⟩
    obtain rfl : s.portWrite 0x00000#17 c = t := Host.Outcome.next.inj hexec
    have hchanged : (s.portWrite 0x00000#17 c).err ≠ s.err := by simp [ht, herr]
    obtain ⟨-, -, hs⟩ := State.portWrite_flags (.inr (.inr (.inl hchanged)))
    have haccept : s.portWrite 0x00000#17 c = s.accept c :=
      Host.Outcome.next.inj (exec_w8_cmd_accept hb ((getLsbD_seven_iff_start c).2 hs))
    rw [haccept] at ht ⊢
    exact ⟨hs, State.accept_code ht⟩
  · rintro ⟨hs, code, h, rfl⟩
    have hexec := exec_w8_cmd_accept (s := idleAt policy code.failingKeylen) rfl ((getLsbD_seven_iff_start c).2 hs)
    rw [accept_idleAt_failingKeylen h] at hexec
    exact ⟨_, _, (by decide : Config.testParams.wf), rfl, rfl, rfl, rfl, hexec, rfl, rfl⟩

/-- R84: a legal command is the byte of its variant. -/
theorem eq_command_of_legal {c : Byte} {v : Variant} (hs : Byte.start c = 1#1) (hr : Byte.rsvd c = 0#5)
    (hv : Variant.ofBits (Byte.variant c) = v) : c = Byte.command 1#1 0#5 v.bits := by
  rw [← hv, Variant.bits_ofBits, ← hs, ← hr, c.command_fields]

/-- Reads, and writes to other addresses than CMD, leave ERR and ERRCODE (R184). -/
theorem err_of_read_or_write_elsewhere {s t : State} {a : HostAddr} {d : Byte}
    (h : exec (.r8 a d) s = .next t ∨ a ≠ 0x00000#17 ∧ exec (.w8 a d) s = .next t) :
    t.err = s.err ∧ t.errcode = s.errcode := by
  rcases h with hread | ⟨ha, hwrite⟩
  · obtain rfl : s.driveRead (s.portRead a) = t := Host.Outcome.next.inj hread
    exact ⟨rfl, rfl⟩
  · obtain rfl : s.portWrite a d = t := Host.Outcome.next.inj hwrite
    rw [State.portWrite_frame_of_ne_cmd ha]
    exact ⟨rfl, rfl⟩

/-- Settles O33: the table read by code, with the bytes as the commands of the variants and the illegal ones. -/
theorem whichCommandRaisesWhichCode : Obligations.WhichCommandRaisesWhichCode := by
  refine ⟨fun policy c k => canRaise_iff.trans ⟨?_, ?_⟩, fun _ _ _ _ => err_of_read_or_write_elsewhere⟩
  · rintro ⟨hs, code, h, rfl⟩
    cases code with
    | keyEmpty =>
      obtain ⟨hr, hv | hv⟩ := h
      · exact .inr (.inl ⟨eq_command_of_legal hs hr hv, .inl rfl⟩)
      · exact .inr (.inr (.inr (.inl ⟨eq_command_of_legal hs hr hv, .inl rfl⟩)))
    | keyTooLong =>
      obtain ⟨hr, hv, hp⟩ := h
      exact .inl ⟨eq_command_of_legal hs hr hv, .inl ⟨rfl, hp⟩⟩
    | keylenOverCap =>
      cases hv : Variant.ofBits (Byte.variant c) <;> have hc := eq_command_of_legal hs h hv
      case rfc3074 => exact .inl ⟨hc, .inr rfl⟩
      case original => exact .inr (.inl ⟨hc, .inr rfl⟩)
      case wikipedia => exact .inr (.inr (.inl ⟨hc, rfl⟩))
      case hash16 => exact .inr (.inr (.inr (.inl ⟨hc, .inr rfl⟩)))
    | illegalCommand => exact .inr (.inr (.inr (.inr ⟨illegal_iff_ge.1 ⟨hs, h⟩, rfl⟩)))
  · rintro (⟨rfl, ⟨rfl, hp⟩ | rfl⟩ | ⟨rfl, rfl | rfl⟩ | ⟨rfl, rfl⟩ | ⟨rfl, rfl | rfl⟩ | ⟨hc, rfl⟩)
    · exact ⟨rfl, .keyTooLong, ⟨rfl, rfl, hp⟩, rfl⟩
    · exact ⟨rfl, .keylenOverCap, rfl, rfl⟩
    · exact ⟨rfl, .keyEmpty, ⟨rfl, .inl rfl⟩, rfl⟩
    · exact ⟨rfl, .keylenOverCap, rfl, rfl⟩
    · exact ⟨rfl, .keylenOverCap, rfl, rfl⟩
    · exact ⟨rfl, .keyEmpty, ⟨rfl, .inr rfl⟩, rfl⟩
    · exact ⟨rfl, .keylenOverCap, rfl, rfl⟩
    · obtain ⟨hs, hr⟩ := illegal_iff_ge.2 hc
      exact ⟨hs, .illegalCommand, hr, rfl⟩

end Sys2Proof.Machine

/-! PROOFS of 70_reset_and_hazards.md: the cycle of reset (R210 to R212), host writes while busy (R221), and STATUS read
in the cycle after a command (R226). -/

namespace Sys2Proof.Machine

/-! ### Reset -/

/-- Settles O11: the registers by their reset values, rdata by what is presented in the cycle. -/
theorem resetCycleEffect : Obligations.ResetCycleEffect := by
  intro s presented rest hi
  refine ⟨_, step_reset hi, rfl, rfl, rfl, rfl, rfl, rfl, rfl, rfl, rfl, rfl, rfl, rfl, rfl, rfl, rfl, ?_, ?_, ?_⟩
  · rintro a d rfl
    simp [State.resetRead]
  · rintro a d rfl
    simp [State.resetRead]
  · rintro rfl
    rfl

/-! ### Writes while busy -/

/-- Settles O21, by the rows of the opcode table: W8 and the commands are guarded by BUSY, PH.NOP writes nothing, and
a read drives the map's byte. -/
theorem writesIgnoredWhileBusy : Obligations.WritesIgnoredWhileBusy := by
  refine fun s hb => ⟨fun i hr => ?_, fun a d => exec_r8_of_portRead rfl⟩
  cases i with
  | r8 a d => exact absurd rfl (hr a d)
  | w8 a v => exact congrArg Host.Outcome.next (State.portWrite_busy hb a v)
  | phNop r v => rfl
  | phRfc3074 | phOrig | phWiki | phH16 | illegalC0 | illegalA0 | illegal90 | illegal88 | illegal84 =>
    exact congrArg Host.Outcome.next (State.whenIdle_busy hb _)

/-! ### STATUS in the cycle after a command -/

/-- R52: a cycle with a read drives the byte that the map holds before the engine's turn. -/
theorem tick_read (s : State) (a : HostAddr) (d : Byte) :
    tick false (some (TxnWord.make 0#1 a d)) s = engineTurn { s with rdata := some (s.portRead a) } := by
  show engineOfCycle s.busy (exec (decodeTransaction (TxnWord.make 0#1 a d)) { s with rdata := none }) = _
  rw [decodeTransaction_read]
  rfl

/-- R51, R52: the byte read stays on rdata, since the engine's turn of the cycle keeps it. -/
theorem rdata_of_tick_read {s u : State} {a : HostAddr} {d : Byte}
    (h : tick false (some (TxnWord.make 0#1 a d)) s = .next u) : u.rdata = some (s.portRead a) := by
  rw [tick_read] at h
  rw [engineTurn_frame h]

/-- R230: a cycle that begins idle is the host's transaction alone. -/
theorem tick_write_of_idle {s : State} (hb : s.busy = false) (a : HostAddr) (v : Byte) :
    tick false (some (TxnWord.make 1#1 a v)) s = exec (.w8 a v) { s with rdata := none } := by
  show engineOfCycle s.busy (exec (decodeTransaction (TxnWord.make 1#1 a v)) { s with rdata := none }) = _
  rw [hb, engineOfCycle_idle, decodeTransaction_write]

namespace State

/-- R106, R142: an operation that starts on a key of one byte or more begins its walk inside the key. -/
theorem start_idx_lt_keylen {s : State} (hk : s.keylen ≠ 0#16) (v : Variant) :
    (s.start v).idx.toNat < s.keylen.toNat := by
  have hpred := toNat_sub_one hk
  rw [start_idx]
  split
  · omega
  · show 0 < s.keylen.toNat
    omega

/-- R110, R142: an operation that was accepted has its first engine step, whatever rdata holds. -/
theorem engineTurn_start {s : State} {v : Variant} (ha : s.accepts v) (rdata : Option Byte) :
    ∃ u, engineTurn { s.start v with rdata := rdata } = .next u := by
  by_cases hk : s.keylen = 0#16
  · exact ⟨_, engineTurn_endOfPass rfl hk⟩
  · exact ⟨_, engineTurn_fold rfl hk ((start_idx_lt_keylen hk v).trans_le (keylen_le_of_accepts ha))⟩

/-- R226: STATUS shows the end that acceptance came to, an operation running or an error completion. -/
theorem statusByte_accept {s : State} (hb : s.busy = false) (c : Byte) :
    (s.accept c).busy = true ∧ (s.accept c).statusByte = 0x01#8 ∨
    (s.accept c).busy = false ∧
      ∃ code : ErrCode, (s.accept c).statusByte = 0x06#8 ||| (code.bits.setWidth 8 <<< 4) := by
  rcases s.accept_fails_or_starts c with ⟨code, h⟩ | ⟨-, -, h⟩ <;> rw [h]
  · obtain ⟨-, hstatus, -⟩ := errorCompletion s.clearStatus code hb
    exact .inr ⟨hb, code, hstatus⟩
  · exact .inl ⟨rfl, by simp [statusByte]⟩

/-- R226: after acceptance the engine's turn has a next state: an error completion is idle, and an operation has its
first step. -/
theorem engineTurn_accept {s : State} (hb : s.busy = false) (c : Byte) (rdata : Option Byte) :
    ∃ u, engineTurn { s.accept c with rdata := rdata } = .next u := by
  rcases s.accept_fails_or_starts c with ⟨code, h⟩ | ⟨-, ha, h⟩ <;> rw [h]
  · exact ⟨_, if_neg (Bool.eq_false_iff.1 hb)⟩
  · exact engineTurn_start (s := s.clearStatus) ((accepts_congr rfl rfl _).2 ha) rdata

end State

/-- Settles O59: the first cycle is the acceptance, and the second reads the STATUS that it left. -/
theorem statusReadAfterCommand : Obligations.StatusReadAfterCommand := by
  intro s c hb hs
  have haccept := exec_w8_cmd_accept (s := { s with rdata := none }) hb hs
  rw [← tick_write_of_idle hb] at haccept
  obtain ⟨u, hengine⟩ := State.engineTurn_accept (s := { s with rdata := none }) hb c _
  have hread := (tick_read _ 0x00001#17 0x00#8).trans hengine
  refine ⟨_, u, haccept, hread, ?_⟩
  rw [rdata_of_tick_read hread]
  rcases State.statusByte_accept (s := { s with rdata := none }) hb c with ⟨hrun, h⟩ | ⟨hidle, code, h⟩
  · exact .inl ⟨hrun, congrArg some h⟩
  · exact .inr ⟨hidle, code, congrArg some h⟩

end Sys2Proof.Machine
